-- ==== Sys2Proof/Word.lean ====
section
/-! DEFINITION. The word types of the machine (spec/00_scope.md R5, R7): bytes, 16-bit words, the 32-bit fault information.
All values are unsigned (R7). -/

namespace Sys2Proof

/-- An 8-bit value: a general register, a timer, a memory byte, an NN immediate. -/
abbrev Byte := BitVec 8

/-- A 16-bit value: an instruction word, pc, I, a stack entry. -/
abbrev Word := BitVec 16

/-- A 12-bit immediate address NNN (R61). -/
abbrev Addr12 := BitVec 12

/-- A 4-bit field of an instruction word (R61). -/
abbrev Nibble := BitVec 4

end Sys2Proof
end

