-- ==== Sys2Proof/Config.lean ====
section
/-! DEFINITION. What is fixed for a machine (spec/00_scope.md R5, R6) and the one free value, the random byte of CXNN.
The two parameters a model may set, TIMER_MODE and FONT, have their values in Sys2Proof/Machine/Params.lean. -/

namespace Sys2Proof.Config

/-- MEM_SIZE (R5, R40): addresses 0x000 to 0xFFF. -/
abbrev memSize : Nat := 4096

/-- PROG_BASE (R5, R41): where LOAD puts the program and where pc starts. -/
abbrev progBase : Nat := 0x200

/-- PROG_MAX (R5, R272): the largest program image in bytes. -/
abbrev progMax : Nat := 3584

/-- FONT_SIZE (R5, R31): 16 glyphs of 5 bytes at address 0. -/
abbrev fontSize : Nat := 80

/-- STACK_DEPTH (R5, R18). -/
abbrev stackDepth : Nat := 16

/-- FB_W (R5, R21): columns of the framebuffer. -/
abbrev fbWidth : Nat := 64

/-- FB_H (R5, R21): rows of the framebuffer. -/
abbrev fbHeight : Nat := 32

/-- TIMER_MODE (R6, R245, R246): who decays the timers. -/
inductive TimerMode where
  /-- Every COMPLETED step decays them (R85, R245); the host has no TICK. -/
  | perInstruction
  /-- The host's TICK decays them (R246); a step does not. -/
  | externalTick
  deriving DecidableEq, Repr

/-- RAND (R6, R152, R247, D13) where a step is given no byte: the byte of the n-th execution of CXNN. `cycle` and the host's STEP
take RAND as an argument; this constant stands in for it in `step`, which Host/Core.lean gives no argument. A FREE VALUE: it has no
body, so nothing can be proved of it that does not hold for every byte (log 1). -/
opaque rand (n : Nat) : BitVec 8

end Sys2Proof.Config
end

