-- ==== Sys2Proof/Machine/Params.lean ====
section
/-! DEFINITION. The two parameters of spec/00_scope.md R6 at the values the spec takes: FONT and TIMER_MODE. -/

namespace Sys2Proof.Machine

/-- FONT (R6, R31, D14), 16 glyphs of 5 bytes, glyph d at 5*d. PRESUMED: the spec takes these bytes from general knowledge and
not from the source, as the default of a parameter (log 3); statements name `font` and do not rest on its bytes. -/
def font : List Byte :=
  [0xF0, 0x90, 0x90, 0x90, 0xF0] ++ [0x20, 0x60, 0x20, 0x20, 0x70] ++ [0xF0, 0x10, 0xF0, 0x80, 0xF0] ++
  [0xF0, 0x10, 0xF0, 0x10, 0xF0] ++ [0x90, 0x90, 0xF0, 0x10, 0x10] ++ [0xF0, 0x80, 0xF0, 0x10, 0xF0] ++
  [0xF0, 0x80, 0xF0, 0x90, 0xF0] ++ [0xF0, 0x10, 0x20, 0x40, 0x40] ++ [0xF0, 0x90, 0xF0, 0x90, 0xF0] ++
  [0xF0, 0x90, 0xF0, 0x10, 0xF0] ++ [0xF0, 0x90, 0xF0, 0x90, 0x90] ++ [0xE0, 0x90, 0xE0, 0x90, 0xE0] ++
  [0xF0, 0x80, 0x80, 0x80, 0xF0] ++ [0xE0, 0x90, 0x90, 0x90, 0xE0] ++ [0xF0, 0x80, 0xF0, 0x80, 0xF0] ++
  [0xF0, 0x80, 0xF0, 0x80, 0x80]

/-- TIMER_MODE (R6, D1): the spec's default, the source's documented behaviour. `step` runs in it; `cycle` takes the mode as an
argument, so that both modes are modelled (log 4). -/
def timerMode : Config.TimerMode := .perInstruction

end Sys2Proof.Machine
end

