-- ==== Sys2Proof/Syntax.lean ====
section
/-! DEFINITION. The instructions: one constructor per row of spec/opcode_table.json (spec/30_encoding.md R63, R68), its operands
the fields of R61 and R69. The operand types carry the fields' widths. -/

namespace Sys2Proof

/-- The index of a general register V0 to VF, an X or Y field (R11, R61). -/
abbrev Reg := Fin 16

/-- VF, register 0xF, the implicit carry, borrow and collision flag (R12). -/
def regF : Reg := 15

/-- V0, read implicitly by BNNN (R103). -/
def reg0 : Reg := 0

/-- The 34 instructions, in the order of the opcode map R63. -/
inductive Instr where
  /-- 00E0 CLS (R191). -/
  | cls
  /-- 00EE RET (R100). -/
  | ret
  /-- 1NNN JP nnn (R101). -/
  | jp (nnn : Addr12)
  /-- 2NNN CALL nnn (R102). -/
  | call (nnn : Addr12)
  /-- 3XNN SE Vx, nn (R121). -/
  | seImm (x : Reg) (nn : Byte)
  /-- 4XNN SNE Vx, nn (R122). -/
  | sneImm (x : Reg) (nn : Byte)
  /-- 5XY0 SE Vx, Vy (R123). -/
  | seReg (x y : Reg)
  /-- 6XNN LD Vx, nn (R141). -/
  | ldImm (x : Reg) (nn : Byte)
  /-- 7XNN ADD Vx, nn (R142). -/
  | addImm (x : Reg) (nn : Byte)
  /-- 8XY0 LD Vx, Vy (R143). -/
  | ldReg (x y : Reg)
  /-- 8XY1 OR Vx, Vy (R144). -/
  | orReg (x y : Reg)
  /-- 8XY2 AND Vx, Vy (R145). -/
  | andReg (x y : Reg)
  /-- 8XY3 XOR Vx, Vy (R146). -/
  | xorReg (x y : Reg)
  /-- 8XY4 ADD Vx, Vy (R147). -/
  | addReg (x y : Reg)
  /-- 8XY5 SUB Vx, Vy (R148). -/
  | subReg (x y : Reg)
  /-- 8XY6 SHR Vx (R149): the Y field is decoded and not read. -/
  | shr (x y : Reg)
  /-- 8XY7 SUBN Vx, Vy (R150). -/
  | subnReg (x y : Reg)
  /-- 8XYE SHL Vx (R151): the Y field is decoded and not read. -/
  | shl (x y : Reg)
  /-- 9XY0 SNE Vx, Vy (R124). -/
  | sneReg (x y : Reg)
  /-- ANNN LD I, nnn (R170). -/
  | ldI (nnn : Addr12)
  /-- BNNN JP V0, nnn (R103). -/
  | jpV0 (nnn : Addr12)
  /-- CXNN RND Vx, nn (R152). -/
  | rnd (x : Reg) (nn : Byte)
  /-- DXYN DRW Vx, Vy, n (R192). -/
  | drw (x y : Reg) (n : Nibble)
  /-- EX9E SKP Vx (R210). -/
  | skp (x : Reg)
  /-- EXA1 SKNP Vx (R211). -/
  | sknp (x : Reg)
  /-- FX07 LD Vx, DT (R212). -/
  | ldVxDt (x : Reg)
  /-- FX0A LD Vx, K (R213). -/
  | ldVxK (x : Reg)
  /-- FX15 LD DT, Vx (R214). -/
  | ldDtVx (x : Reg)
  /-- FX18 LD ST, Vx (R215). -/
  | ldStVx (x : Reg)
  /-- FX1E ADD I, Vx (R171). -/
  | addIVx (x : Reg)
  /-- FX29 LD F, Vx (R172). -/
  | ldFVx (x : Reg)
  /-- FX33 LD B, Vx (R173). -/
  | ldBVx (x : Reg)
  /-- FX55 LD [I], Vx (R174). -/
  | storeRegs (x : Reg)
  /-- FX65 LD Vx, [I] (R175). -/
  | loadRegs (x : Reg)
  deriving DecidableEq, Repr

end Sys2Proof
end

