-- ==== Sys2Proof/Machine/State.lean ====
section
/-! DEFINITION. The architectural state (spec/10_state.md R10), plain data; the state after INIT (R26); the reasons a step can
stop; the results of a step (spec/40_step_cycle.md R86) and the kinds of fault (spec/60_exceptions.md R232). -/

namespace Sys2Proof.Machine

/-- The memory MEM (R40): (address, byte) pairs with strictly rising addresses, no entry equal to what an unlisted address
reads as (Memory.wf in Ops.lean). An unlisted address reads as its content after INIT (R26): FONT, then zeros. -/
abbrev Memory := List Host.Cell

/-- The framebuffer FB (R21): 2048 cells of one bit, cell (x, y) at index x + 64 * y. -/
abbrev Framebuffer := BitVec 2048

/-- The architectural state (R10), and the model's own counter `draws`. -/
structure State where
  /-- V[0..15] (R11). -/
  v : Vector Byte 16
  /-- pc (R14, R15). -/
  pc : Word
  /-- The index register I (R16). -/
  i : Word
  /-- SP, how many stack entries are in use, 0 to 16 (R17). -/
  sp : Fin 17
  /-- STACK[0..15] (R18). -/
  stack : Vector Word 16
  /-- The delay timer DT (R19). -/
  dt : Byte
  /-- The sound timer ST (R20). -/
  st : Byte
  /-- MEM (R40). -/
  mem : Memory
  /-- FB (R21). -/
  fb : Framebuffer
  /-- DIRTY (R22). -/
  dirty : Bool
  /-- KEY[0..15], true for down (R23). -/
  key : Vector Bool 16
  /-- HALTED (R24). -/
  halted : Bool
  /-- FAULT_CODE (R24, R232). -/
  faultCode : BitVec 8
  /-- FAULT_INFO (R24, R232). -/
  faultInfo : BitVec 32
  /-- The model's own field, not the spec's: how many RAND bytes CXNN has used; the next is `Config.rand draws` (log 1, 2). -/
  draws : Nat
  deriving DecidableEq, Repr

/-- The state after INIT (R26, R270): memory lists nothing, so it reads as FONT and zeros. `draws` is 0, DESIGN CHOICE (log 2). -/
def State.reset : State where
  v := Vector.replicate 16 0
  pc := 0x200
  i := 0
  sp := 0
  stack := Vector.replicate 16 0
  dt := 0
  st := 0
  mem := []
  fb := 0
  dirty := false
  key := Vector.replicate 16 false
  halted := false
  faultCode := 0
  faultInfo := 0
  draws := 0

/-- The kinds of fault (R232), in the order of their codes 1 to 7. -/
inductive FaultKind where
  /-- Decode of an unrecognized word (R233). -/
  | unknownOpcode
  /-- 2NNN with SP = 16 (R234). -/
  | stackOverflow
  /-- 00EE with SP = 0 (R235). -/
  | stackUnderflow
  /-- An access at an address of 4096 or more (R236). -/
  | memoryOutOfRange
  /-- EX9E or EXA1 with VX > 0xF (R237). -/
  | keyIndexOutOfRange
  /-- DXYN with a set bit off the grid (R238). -/
  | drawOutOfRange
  /-- LOAD of more than 3584 bytes (R239). -/
  | capacityExceeded
  deriving DecidableEq, Repr

/-- What a STEP returns besides the state (R86). It is returned, never stored (R25). -/
inductive StepResult where
  /-- The instruction executed. -/
  | completed
  /-- FX0A waits for a key; no state changed (R87). -/
  | blocked
  /-- The step raised a fault, or the core was already halted (R80, R231). -/
  | fault (code : BitVec 8)
  deriving DecidableEq, Repr

/-- Why a step answers no next state. -/
inductive Fault where
  /-- Raised by `step` (never by a meaning) when a STEP is requested of a core whose HALTED is 1: the step changes no state and
  returns FAULT with the latched code (R80, D32), here with the latched information too. Safe: the state is the one before the
  step, which the latch already describes, and only the host's INIT leaves it (log 5). -/
  | halted (code : BitVec 8) (info : BitVec 32)
  deriving DecidableEq, Repr

/-- Why an operation has no meaning. -/
inductive Refusal where
  /-- Answered by an arm of `exec` whose instruction has no meaning yet, with its mnemonic. Safe: nothing is claimed of it.
  No arm answers it now. -/
  | notModelled (mnemonic : String)
  /-- Answered by the host operation TICK in PER_INSTRUCTION mode, where TICK is not available (R250). Safe: no state follows. -/
  | tickNotAvailable
  deriving DecidableEq, Repr

/-- What a meaning answers. -/
abbrev Result := Host.Outcome State Fault Refusal

end Sys2Proof.Machine
end

