-- ==== Sys2Proof/Machine/Ops.lean ====
section
/-! DEFINITION. The named operations over registers, memory, stack, framebuffer and pc (spec/00_scope.md R8), raising a fault and
INIT, the one way out of it (spec/60_exceptions.md R231, R241, R270), and the timer decay (spec/40_step_cycle.md R85). -/

namespace Sys2Proof.Machine

/-! ## Narrowing (R7) -/

/-- u8: the remainder modulo 256 (R7). -/
def u8 (n : Nat) : Byte := BitVec.ofNat 8 n

/-- u16: the remainder modulo 65536 (R7). -/
def u16 (n : Nat) : Word := BitVec.ofNat 16 n

/-- u8 of an integer, the non-negative remainder (R7, R140). -/
def u8Int (n : Int) : Byte := BitVec.ofInt 8 n

/-- bool(c): 1 if c holds and 0 otherwise (R7), as a register value. -/
def flagByte (c : Bool) : Byte := if c then 1 else 0

/-! ## General registers (R11) -/

/-- V[r]. -/
def State.reg (s : State) (r : Reg) : Byte := s.v[r]

/-- V[r] <- b. -/
def State.setReg (s : State) (r : Reg) (b : Byte) : State := { s with v := s.v.set r b }

/-- V[0xF] <- bool(c): the flag, written last (R12). -/
def State.setFlag (s : State) (c : Bool) : State := s.setReg regF (flagByte c)

/-- The sixteen registers in rising order. -/
def allRegs : List Reg := [0, 1, 2, 3, 4, 5, 6, 7, 8, 9, 10, 11, 12, 13, 14, 15]

/-- V0 to VX inclusive, in rising order (R174, R175). -/
def regsTo (x : Reg) : List Reg := allRegs.filter (· ≤ x)

/-! ## pc and I (R14, R16, R84) -/

/-- pc <- target, no further advance. -/
def State.setPc (s : State) (target : Word) : State := { s with pc := target }

/-- pc <- u16(pc + 2) (R84). -/
def State.advance (s : State) : State := s.setPc (s.pc + 2)

/-- skip_if(c): pc + 4 when c holds, pc + 2 when it does not (R120). -/
def State.skipIf (s : State) (c : Bool) : State := s.setPc (if c then s.pc + 4 else s.pc + 2)

/-- I <- w (R16). -/
def State.setI (s : State) (w : Word) : State := { s with i := w }

/-! ## Memory (R40 to R44) -/

/-- What an address that is not listed reads as: its content after INIT (R26), FONT at 0x000 to 0x04F and zero elsewhere. -/
def initialByte (a : Nat) : Byte := font.getD a 0

/-- The byte listed at an address, if one is. -/
def Memory.lookup : Memory → Nat → Option Byte
  | [], _ => none
  | (k, b) :: m, a => if k = a then some b else Memory.lookup m a

/-- MemRead(a, 1) (R8), for a < 4096 (the callers check, R44). -/
def Memory.read (m : Memory) (a : Nat) : Byte := (m.lookup a).getD (initialByte a)

/-- MemWrite(a, 1, b) (R8), for a < 4096 (the callers check, R44): the canonical form is kept, so writing what an unlisted
address reads as removes the entry. -/
def Memory.write : Memory → Nat → Byte → Memory
  | [], a, b => if b = initialByte a then [] else [(a, b)]
  | (k, c) :: m, a, b =>
    if k < a then (k, c) :: Memory.write m a b
    else if k = a then (if b = initialByte a then m else (a, b) :: m)
    else (if b = initialByte a then (k, c) :: m else (a, b) :: (k, c) :: m)

/-- The canonical form: addresses strictly rising and below 4096 (R40), and no entry equal to what an unlisted address reads as. -/
abbrev Memory.wf (m : Memory) : Prop :=
  m.Pairwise (fun c d => c.1 < d.1) ∧ ∀ c ∈ m, c.1 < Config.memSize ∧ c.2 ≠ initialByte c.1

/-- MEM[a]. -/
def State.readMem (s : State) (a : Nat) : Byte := s.mem.read a

/-- MEM[a] <- b. -/
def State.writeMem (s : State) (a : Nat) (b : Byte) : State := { s with mem := s.mem.write a b }

/-- Consecutive bytes written from an address up (R47). -/
def State.writeBytes (s : State) (a : Nat) : List Byte → State
  | [] => s
  | b :: bs => (s.writeMem a b).writeBytes (a + 1) bs

/-! ## Call stack (R17, R18) -/

/-- STACK[SP] <- w, then SP <- SP + 1, with room for it (R18). -/
def State.push (s : State) (w : Word) (room : s.sp.val < 16) : State :=
  { s with stack := s.stack.set s.sp.val w, sp := ⟨s.sp.val + 1, by omega⟩ }

/-- STACK[SP - 1], the entry a pop reads after its decrement (R18). -/
def State.topEntry (s : State) : Word := s.stack[s.sp.val - 1]'(by have := s.sp.isLt; omega)

/-- SP <- SP - 1, the entry kept (R18). -/
def State.pop (s : State) : State := { s with sp := ⟨s.sp.val - 1, by omega⟩ }

/-! ## Framebuffer (R21, R22) -/

/-- The index of the cell in column x and row y (R21). -/
def cellIndex (x y : Nat) : Nat := x + y * Config.fbWidth

/-- FB[idx]. -/
def State.cell (s : State) (idx : Nat) : Bool := s.fb.getLsbD idx

/-- FB[idx] <- FB[idx] ^ 1. -/
def flipCell (fb : Framebuffer) (idx : Nat) : Framebuffer := fb ^^^ BitVec.twoPow 2048 idx

/-- FB <- fb and DIRTY <- 1 ("mark dirty", R22). -/
def State.setFb (s : State) (fb : Framebuffer) : State := { s with fb := fb, dirty := true }

/-! ## Keypad (R23, R244) -/

/-- KEY[k] == 1. -/
def State.keyDown (s : State) (k : Fin 16) : Bool := s.key[k]

/-- The lowest-indexed key that is down, if one is (R213). -/
def State.lowestKey (s : State) : Option (Fin 16) := allRegs.find? s.keyDown

/-! ## Timers (R19, R20, R85, R246) -/

/-- DT <- b. -/
def State.setDt (s : State) (b : Byte) : State := { s with dt := b }

/-- ST <- b. -/
def State.setSt (s : State) (b : Byte) : State := { s with st := b }

/-- One count toward zero, floored at 0 (R19, R85). -/
def countDown (b : Byte) : Byte := if b = 0 then 0 else b - 1

/-- Both timers count down once (R85, R246). -/
def State.decay (s : State) : State := { s with dt := countDown s.dt, st := countDown s.st }

/-! ## The random byte (R152, R247) -/

/-- RAND where nobody supplies it, in `step` and `exec`: the free byte the counter names (log 1). -/
def State.randByte (s : State) : Byte := Config.rand s.draws

/-- One RAND byte has been used. -/
def State.countDraw (s : State) : State := { s with draws := s.draws + 1 }

/-! ## Faults (R231, R232, R241) -/

/-- The numeric code of a kind of fault (R232). -/
def FaultKind.code : FaultKind → BitVec 8
  | .unknownOpcode => 1
  | .stackOverflow => 2
  | .stackUnderflow => 3
  | .memoryOutOfRange => 4
  | .keyIndexOutOfRange => 5
  | .drawOutOfRange => 6
  | .capacityExceeded => 7

/-- raise Fault(code, info) (R231): the status latch is written and nothing else. It is given the state before the step's
writes, so none of them is made (R88). -/
def State.raise (s : State) (kind : FaultKind) (info : Nat) : State :=
  { s with halted := true, faultCode := kind.code, faultInfo := BitVec.ofNat 32 info }

/-- INIT (R270): every piece of state at its reset value (R26). The only way out of the halted state (R241); there is no return
from a fault. The counter of RAND bytes is kept, so that the bytes after INIT are fresh (log 2). -/
def State.init (s : State) : State := { State.reset with draws := s.draws }

/-- A meaning that completes, blocks or raises answers a next state. -/
def done (s : State) : Result := .next s

/-- A meaning ends by raising a fault from the state before its writes (R83, R231). -/
def fail (s : State) (kind : FaultKind) (info : Nat) : Result := .next (s.raise kind info)

end Sys2Proof.Machine
end

