-- ==== Sys2Proof/Machine/Flags.lean ====
section
/-! DEFINITION. Every flag computation: the value VF receives (spec/10_state.md R12, R13; spec/43_alu.md R140, R147 to R151;
spec/44_index_memory.md R171). The collision flag of DXYN is computed with the drawing (drawCells in Operands.lean). -/

namespace Sys2Proof.Machine

/-- Carry of 8XY4: a + b > 255 on the natural values (R147). -/
def carryOut (a b : Byte) : Bool := a.toNat + b.toNat > 255

/-- No borrow of a - b: a >= b (R148; R150 with the operands swapped). -/
def noBorrow (a b : Byte) : Bool := a.toNat ≥ b.toNat

/-- The bit 8XY6 shifts out: a & 0x01 (R149). -/
def shiftedOutLow (a : Byte) : Bool := a &&& 0x01 = 1

/-- The bit 8XYE shifts out: a >> 7 (R151). -/
def shiftedOutHigh (a : Byte) : Bool := a >>> 7 = 1

/-- The range flag of FX1E: the new 16-bit I exceeds 0xFFF (R171, D17). -/
def indexAbove (w : Word) : Bool := w.toNat > 0xFFF

end Sys2Proof.Machine
end

