-- ==== Sys2Proof/Machine/Operands.lean ====
section
/-! DEFINITION. Computed operands: the addresses an instruction accesses and their check (spec/20_memory.md R44), the rows and
cells of a sprite (spec/45_display.md R190, R192), the decimal digits of FX33 (spec/44_index_memory.md R173). -/

namespace Sys2Proof.Machine

/-! ## Addresses and their check (R44) -/

/-- `len` consecutive addresses from `a` up, natural numbers without wrap-around (R44). -/
def addressesFrom (a len : Nat) : List Nat := (List.range len).map (a + ·)

/-- The first address of a rising list that is 4096 or more (R44). -/
def lowestOutOfRange (as : List Nat) : Option Nat := as.find? fun a => Config.memSize ≤ a

/-- check(addr_list), then the rest of the instruction (R44): MEMORY_OUT_OF_RANGE at the lowest bad address (R236). -/
def checked (s : State) (as : List Nat) (rest : Result) : Result :=
  match lowestOutOfRange as with
  | some a => fail s .memoryOutOfRange a
  | none => rest

/-- I, I+1, ..., I+len-1: the only addressing mode of data. -/
def indexAddresses (s : State) (len : Nat) : List Nat := addressesFrom s.i.toNat len

/-! ## Sprites (R190, R192) -/

/-- The N row bytes of a sprite, from MEM[I] up, top row first (R190). -/
def spriteRows (s : State) (n : Nat) : List Byte := (indexAddresses s n).map s.readMem

/-- The cells (column, row) of the set bits of one row byte whose leftmost column is x0, bit 7 leftmost (R190; PRESUMED by the
spec from general knowledge, log 15), in rising column order. -/
def rowCells (x0 y : Nat) (b : Byte) : List (Nat × Nat) :=
  ((List.range 8).filter fun c => b.getLsbD (7 - c)).map fun c => (x0 + c, y)

/-- The cells of the set bits of a sprite whose top row is y, in row-then-column order (R192). -/
def spriteCells (x0 : Nat) : Nat → List Byte → List (Nat × Nat)
  | _, [] => []
  | y, b :: bs => rowCells x0 y b ++ spriteCells x0 (y + 1) bs

/-- A cell is off the 64 by 32 grid (R192, R238). -/
def offGrid (p : Nat × Nat) : Bool := Config.fbWidth ≤ p.1 || Config.fbHeight ≤ p.2

/-- FAULT_INFO of a cell off the grid: px * 65536 + py (R232, R238). -/
def drawInfo (p : Nat × Nat) : Nat := p.1 * 65536 + p.2

/-- XOR one set bit onto the framebuffer, remembering whether any cell went from 1 to 0 (R192). -/
def drawCell (acc : Framebuffer × Bool) (p : Nat × Nat) : Framebuffer × Bool :=
  (flipCell acc.1 (cellIndex p.1 p.2), acc.2 || acc.1.getLsbD (cellIndex p.1 p.2))

/-- XOR a list of cells in order, from no collision (R192). -/
def drawCells (fb : Framebuffer) (cells : List (Nat × Nat)) : Framebuffer × Bool := cells.foldl drawCell (fb, false)

/-! ## Decimal digits (R173) -/

/-- Hundreds, tens and units of a byte, as values 0 to 9. -/
def decimalDigits (b : Byte) : List Byte := [u8 (b.toNat / 100), u8 (b.toNat / 10 % 10), u8 (b.toNat % 10)]

/-! ## Block transfers (R174, R175) -/

/-- MEM[I+r] <- V[r] for each r of the list, in order; I is the one before the instruction. -/
def storeAll (s : State) (rs : List Reg) : State := rs.foldl (fun t r => t.writeMem (s.i.toNat + r.val) (s.reg r)) s

/-- V[r] <- MEM[I+r] for each r of the list, in order; I is the one before the instruction. -/
def loadAll (s : State) (rs : List Reg) : State := rs.foldl (fun t r => t.setReg r (s.readMem (s.i.toNat + r.val))) s

end Sys2Proof.Machine
end

