-- ==== Sys2Proof/Machine/Alu.lean ====
section
/-! DEFINITION. Register loads and ALU: 6XNN, 7XNN, 8XY0 to 8XY7, 8XYE, CXNN (spec/43_alu.md R140 to R152). Sources are read
before any write; a flag is written to VF after the destination (R12, R140). -/

namespace Sys2Proof.Machine

/-- V[x] <- b, then pc + 2: the end of every instruction here that writes no flag. -/
def writeBack (s : State) (x : Reg) (b : Byte) : Result := done (s.setReg x b).advance

/-- V[x] <- b, then the flag into VF, then pc + 2: the end of every instruction here that writes the flag (R12). -/
def writeBackFlag (s : State) (x : Reg) (b : Byte) (flag : Bool) : Result := done ((s.setReg x b).setFlag flag).advance

/-- 6XNN LD Vx, nn (R141). -/
def execLdImm (x : Reg) (nn : Byte) (s : State) : Result := writeBack s x nn

/-- 7XNN ADD Vx, nn (R142): no flag. -/
def execAddImm (x : Reg) (nn : Byte) (s : State) : Result := writeBack s x (u8 ((s.reg x).toNat + nn.toNat))

/-- 8XY0 LD Vx, Vy (R143). -/
def execLdReg (x y : Reg) (s : State) : Result := writeBack s x (s.reg y)

/-- 8XY1 OR Vx, Vy (R144): VF is not reset. -/
def execOrReg (x y : Reg) (s : State) : Result := writeBack s x (s.reg x ||| s.reg y)

/-- 8XY2 AND Vx, Vy (R145): VF is not reset. -/
def execAndReg (x y : Reg) (s : State) : Result := writeBack s x (s.reg x &&& s.reg y)

/-- 8XY3 XOR Vx, Vy (R146): VF is not reset. -/
def execXorReg (x y : Reg) (s : State) : Result := writeBack s x (s.reg x ^^^ s.reg y)

/-- 8XY4 ADD Vx, Vy (R147). -/
def execAddReg (x y : Reg) (s : State) : Result :=
  writeBackFlag s x (u8 ((s.reg x).toNat + (s.reg y).toNat)) (carryOut (s.reg x) (s.reg y))

/-- 8XY5 SUB Vx, Vy (R148). -/
def execSubReg (x y : Reg) (s : State) : Result :=
  writeBackFlag s x (u8Int ((s.reg x).toNat - (s.reg y).toNat)) (noBorrow (s.reg x) (s.reg y))

/-- 8XY6 SHR Vx (R149): on VX only, the Y field is not read. -/
def execShr (x _y : Reg) (s : State) : Result := writeBackFlag s x (s.reg x >>> 1) (shiftedOutLow (s.reg x))

/-- 8XY7 SUBN Vx, Vy (R150, D16). PRESUMED by the spec from general knowledge (log 14). -/
def execSubnReg (x y : Reg) (s : State) : Result :=
  writeBackFlag s x (u8Int ((s.reg y).toNat - (s.reg x).toNat)) (noBorrow (s.reg y) (s.reg x))

/-- 8XYE SHL Vx (R151): on VX only, the Y field is not read. -/
def execShl (x _y : Reg) (s : State) : Result := writeBackFlag s x (s.reg x <<< 1) (shiftedOutHigh (s.reg x))

/-- CXNN RND Vx, nn (R152, R247) with the byte RAND that the step supplies: VX is RAND under the mask nn. -/
def rndWith (rand : Byte) (x : Reg) (nn : Byte) (s : State) : Result := writeBack s.countDraw x (rand &&& nn)

/-- CXNN RND Vx, nn (R152) of `exec`, which has no byte supplied: RAND is the free byte the counter names (log 1). -/
def execRnd (x : Reg) (nn : Byte) (s : State) : Result := rndWith s.randByte x nn s

end Sys2Proof.Machine
end

