-- ==== Sys2Proof/WellFormed.lean ====
section
/-! DEFINITION. Well-formed instructions: every operand fits the field of the instruction word that holds it (spec/30_encoding.md
R61, R62, R69). The operand types of Instr already carry the widths, so every Instr passes (Laws/Encoding.lean proves it); the
check itself is `fieldFits`, and it refuses a value too large for its field. -/

namespace Sys2Proof

/-- A value fits a field of the given width in bits: it is unsigned and below 2 to the width (R61). -/
def fieldFits (width value : Nat) : Bool := value < 2 ^ width

/-- The operand fields of an instruction, as (width in bits, value), in the order of R61's table. -/
def Instr.operandFields : Instr → List (Nat × Nat)
  | .cls => []
  | .ret => []
  | .jp nnn => [(12, nnn.toNat)]
  | .call nnn => [(12, nnn.toNat)]
  | .seImm x nn => [(4, x.val), (8, nn.toNat)]
  | .sneImm x nn => [(4, x.val), (8, nn.toNat)]
  | .seReg x y => [(4, x.val), (4, y.val)]
  | .ldImm x nn => [(4, x.val), (8, nn.toNat)]
  | .addImm x nn => [(4, x.val), (8, nn.toNat)]
  | .ldReg x y => [(4, x.val), (4, y.val)]
  | .orReg x y => [(4, x.val), (4, y.val)]
  | .andReg x y => [(4, x.val), (4, y.val)]
  | .xorReg x y => [(4, x.val), (4, y.val)]
  | .addReg x y => [(4, x.val), (4, y.val)]
  | .subReg x y => [(4, x.val), (4, y.val)]
  | .shr x y => [(4, x.val), (4, y.val)]
  | .subnReg x y => [(4, x.val), (4, y.val)]
  | .shl x y => [(4, x.val), (4, y.val)]
  | .sneReg x y => [(4, x.val), (4, y.val)]
  | .ldI nnn => [(12, nnn.toNat)]
  | .jpV0 nnn => [(12, nnn.toNat)]
  | .rnd x nn => [(4, x.val), (8, nn.toNat)]
  | .drw x y n => [(4, x.val), (4, y.val), (4, n.toNat)]
  | .skp x => [(4, x.val)]
  | .sknp x => [(4, x.val)]
  | .ldVxDt x => [(4, x.val)]
  | .ldVxK x => [(4, x.val)]
  | .ldDtVx x => [(4, x.val)]
  | .ldStVx x => [(4, x.val)]
  | .addIVx x => [(4, x.val)]
  | .ldFVx x => [(4, x.val)]
  | .ldBVx x => [(4, x.val)]
  | .storeRegs x => [(4, x.val)]
  | .loadRegs x => [(4, x.val)]

/-- An instruction is well formed when each of its operands fits its field (R61, R69). -/
def Instr.wellFormed (i : Instr) : Bool := i.operandFields.all fun f => fieldFits f.1 f.2

end Sys2Proof
end

