-- ==== Sys2Proof/Decode.lean ====
section
/-! DEFINITION. The decoder, the encoder and the opcode map (spec/30_encoding.md R60 to R69, spec/40_step_cycle.md R82).
Decoding is exact (R64): every digit a pattern fixes must match, and any other word is an unrecognized opcode (R65). -/

namespace Sys2Proof

/-! ## Fields of an instruction word (R61, R69) -/

/-- The family selector op[15:12] (R61, R82). -/
def familyOf (op : Word) : Nat := (op.extractLsb' 12 4).toNat

/-- X, op[11:8]. -/
def xOf (op : Word) : Reg := (op.extractLsb' 8 4).toFin

/-- Y, op[7:4]. -/
def yOf (op : Word) : Reg := (op.extractLsb' 4 4).toFin

/-- N, op[3:0]. -/
def nOf (op : Word) : Nibble := op.extractLsb' 0 4

/-- NN, op[7:0]. -/
def nnOf (op : Word) : Byte := op.extractLsb' 0 8

/-- NNN, op[11:0]. -/
def nnnOf (op : Word) : Addr12 := op.extractLsb' 0 12

/-! ## The decoder -/

/-- The 0 family: exactly 00E0 and 00EE (R64). -/
def decodeZero (op : Word) : Option Instr :=
  match op.toNat with
  | 0x00E0 => some .cls
  | 0x00EE => some .ret
  | _ => none

/-- The 8 family, by its function nibble op[3:0] (R62, R64). -/
def decodeAlu (op : Word) : Option Instr :=
  match (nOf op).toNat with
  | 0x0 => some (.ldReg (xOf op) (yOf op))
  | 0x1 => some (.orReg (xOf op) (yOf op))
  | 0x2 => some (.andReg (xOf op) (yOf op))
  | 0x3 => some (.xorReg (xOf op) (yOf op))
  | 0x4 => some (.addReg (xOf op) (yOf op))
  | 0x5 => some (.subReg (xOf op) (yOf op))
  | 0x6 => some (.shr (xOf op) (yOf op))
  | 0x7 => some (.subnReg (xOf op) (yOf op))
  | 0xE => some (.shl (xOf op) (yOf op))
  | _ => none

/-- The E family, by its low byte (R62, R64). -/
def decodeKey (op : Word) : Option Instr :=
  match (nnOf op).toNat with
  | 0x9E => some (.skp (xOf op))
  | 0xA1 => some (.sknp (xOf op))
  | _ => none

/-- The F family, by its low byte (R62, R64). -/
def decodeMisc (op : Word) : Option Instr :=
  match (nnOf op).toNat with
  | 0x07 => some (.ldVxDt (xOf op))
  | 0x0A => some (.ldVxK (xOf op))
  | 0x15 => some (.ldDtVx (xOf op))
  | 0x18 => some (.ldStVx (xOf op))
  | 0x1E => some (.addIVx (xOf op))
  | 0x29 => some (.ldFVx (xOf op))
  | 0x33 => some (.ldBVx (xOf op))
  | 0x55 => some (.storeRegs (xOf op))
  | 0x65 => some (.loadRegs (xOf op))
  | _ => none

/-- The instruction a word stands for, or none for an unrecognized opcode (R63 to R66, R82). -/
def decodeWord (op : Word) : Option Instr :=
  match familyOf op with
  | 0x0 => decodeZero op
  | 0x1 => some (.jp (nnnOf op))
  | 0x2 => some (.call (nnnOf op))
  | 0x3 => some (.seImm (xOf op) (nnOf op))
  | 0x4 => some (.sneImm (xOf op) (nnOf op))
  | 0x5 => if (nOf op).toNat = 0 then some (.seReg (xOf op) (yOf op)) else none
  | 0x6 => some (.ldImm (xOf op) (nnOf op))
  | 0x7 => some (.addImm (xOf op) (nnOf op))
  | 0x8 => decodeAlu op
  | 0x9 => if (nOf op).toNat = 0 then some (.sneReg (xOf op) (yOf op)) else none
  | 0xA => some (.ldI (nnnOf op))
  | 0xB => some (.jpV0 (nnnOf op))
  | 0xC => some (.rnd (xOf op) (nnOf op))
  | 0xD => some (.drw (xOf op) (yOf op) (nOf op))
  | 0xE => decodeKey op
  | 0xF => decodeMisc op
  | _ => none

/-- Why a byte sequence is no instruction. -/
inductive DecodeError where
  /-- Fewer than the two bytes of a word are left (R60). -/
  | tooShort
  /-- The word matches no row of the opcode map (R65). -/
  | unknownOpcode (op : Word)
  deriving DecidableEq, Repr

/-- The word of two bytes, the first (the one at the lower address) in bits 15:8 (R45, R60, R81). -/
def wordOfBytes (hi lo : Byte) : Word := hi ++ lo

/-- The decoder on any bytes: the first instruction and the bytes after it, or the reason there is none (R60, R63, R65). -/
def decode : List Byte → Except DecodeError (Instr × List Byte)
  | hi :: lo :: rest =>
    match decodeWord (wordOfBytes hi lo) with
    | some i => .ok (i, rest)
    | none => .error (.unknownOpcode (wordOfBytes hi lo))
  | _ => .error .tooShort

/-! ## The encoder (R62) -/

/-- Format F-NNN. -/
def fmtNNN (family : Nibble) (nnn : Addr12) : Word := family ++ nnn

/-- Formats F-XNN and F-Xfn: the low byte is NN or the function. -/
def fmtXNN (family : Nibble) (x : Reg) (low : Byte) : Word := family ++ BitVec.ofFin (w := 4) x ++ low

/-- Formats F-XY0 and F-XYN: the low nibble is the function or N. -/
def fmtXYN (family : Nibble) (x y : Reg) (low : Nibble) : Word :=
  family ++ BitVec.ofFin (w := 4) x ++ BitVec.ofFin (w := 4) y ++ low

/-- The word of an instruction (R62, R63). -/
def encode : Instr → Word
  | .cls => 0x00E0
  | .ret => 0x00EE
  | .jp nnn => fmtNNN 0x1 nnn
  | .call nnn => fmtNNN 0x2 nnn
  | .seImm x nn => fmtXNN 0x3 x nn
  | .sneImm x nn => fmtXNN 0x4 x nn
  | .seReg x y => fmtXYN 0x5 x y 0x0
  | .ldImm x nn => fmtXNN 0x6 x nn
  | .addImm x nn => fmtXNN 0x7 x nn
  | .ldReg x y => fmtXYN 0x8 x y 0x0
  | .orReg x y => fmtXYN 0x8 x y 0x1
  | .andReg x y => fmtXYN 0x8 x y 0x2
  | .xorReg x y => fmtXYN 0x8 x y 0x3
  | .addReg x y => fmtXYN 0x8 x y 0x4
  | .subReg x y => fmtXYN 0x8 x y 0x5
  | .shr x y => fmtXYN 0x8 x y 0x6
  | .subnReg x y => fmtXYN 0x8 x y 0x7
  | .shl x y => fmtXYN 0x8 x y 0xE
  | .sneReg x y => fmtXYN 0x9 x y 0x0
  | .ldI nnn => fmtNNN 0xA nnn
  | .jpV0 nnn => fmtNNN 0xB nnn
  | .rnd x nn => fmtXNN 0xC x nn
  | .drw x y n => fmtXYN 0xD x y n
  | .skp x => fmtXNN 0xE x 0x9E
  | .sknp x => fmtXNN 0xE x 0xA1
  | .ldVxDt x => fmtXNN 0xF x 0x07
  | .ldVxK x => fmtXNN 0xF x 0x0A
  | .ldDtVx x => fmtXNN 0xF x 0x15
  | .ldStVx x => fmtXNN 0xF x 0x18
  | .addIVx x => fmtXNN 0xF x 0x1E
  | .ldFVx x => fmtXNN 0xF x 0x29
  | .ldBVx x => fmtXNN 0xF x 0x33
  | .storeRegs x => fmtXNN 0xF x 0x55
  | .loadRegs x => fmtXNN 0xF x 0x65

/-- The two bytes of a word in memory order: bits 15:8 first (R45). -/
def bytesOfWord (w : Word) : List Byte := [w.extractLsb' 8 8, w.extractLsb' 0 8]

/-! ## The opcode map (R63), as match and mask -/

/-- One row of the opcode map: a word belongs to it when the bits under the mask are the match. -/
structure OpRow where
  pattern : Word
  mask : Word
  deriving DecidableEq, Repr

/-- A word belongs to a row: `(op & mask) == match` (R63). -/
def OpRow.holds (r : OpRow) (op : Word) : Bool := (op &&& r.mask) == r.pattern

/-- The row of the opcode map an instruction stands in, numbers copied from R63. -/
def rowOf : Instr → OpRow
  | .cls => ⟨0x00E0, 0xFFFF⟩
  | .ret => ⟨0x00EE, 0xFFFF⟩
  | .jp _ => ⟨0x1000, 0xF000⟩
  | .call _ => ⟨0x2000, 0xF000⟩
  | .seImm _ _ => ⟨0x3000, 0xF000⟩
  | .sneImm _ _ => ⟨0x4000, 0xF000⟩
  | .seReg _ _ => ⟨0x5000, 0xF00F⟩
  | .ldImm _ _ => ⟨0x6000, 0xF000⟩
  | .addImm _ _ => ⟨0x7000, 0xF000⟩
  | .ldReg _ _ => ⟨0x8000, 0xF00F⟩
  | .orReg _ _ => ⟨0x8001, 0xF00F⟩
  | .andReg _ _ => ⟨0x8002, 0xF00F⟩
  | .xorReg _ _ => ⟨0x8003, 0xF00F⟩
  | .addReg _ _ => ⟨0x8004, 0xF00F⟩
  | .subReg _ _ => ⟨0x8005, 0xF00F⟩
  | .shr _ _ => ⟨0x8006, 0xF00F⟩
  | .subnReg _ _ => ⟨0x8007, 0xF00F⟩
  | .shl _ _ => ⟨0x800E, 0xF00F⟩
  | .sneReg _ _ => ⟨0x9000, 0xF00F⟩
  | .ldI _ => ⟨0xA000, 0xF000⟩
  | .jpV0 _ => ⟨0xB000, 0xF000⟩
  | .rnd _ _ => ⟨0xC000, 0xF000⟩
  | .drw _ _ _ => ⟨0xD000, 0xF000⟩
  | .skp _ => ⟨0xE09E, 0xF0FF⟩
  | .sknp _ => ⟨0xE0A1, 0xF0FF⟩
  | .ldVxDt _ => ⟨0xF007, 0xF0FF⟩
  | .ldVxK _ => ⟨0xF00A, 0xF0FF⟩
  | .ldDtVx _ => ⟨0xF015, 0xF0FF⟩
  | .ldStVx _ => ⟨0xF018, 0xF0FF⟩
  | .addIVx _ => ⟨0xF01E, 0xF0FF⟩
  | .ldFVx _ => ⟨0xF029, 0xF0FF⟩
  | .ldBVx _ => ⟨0xF033, 0xF0FF⟩
  | .storeRegs _ => ⟨0xF055, 0xF0FF⟩
  | .loadRegs _ => ⟨0xF065, 0xF0FF⟩

/-- One instruction of each row, in the order of R63. -/
def rowExamples : List Instr :=
  [.cls, .ret, .jp 0, .call 0, .seImm 0 0, .sneImm 0 0, .seReg 0 0, .ldImm 0 0, .addImm 0 0, .ldReg 0 0, .orReg 0 0,
    .andReg 0 0, .xorReg 0 0, .addReg 0 0, .subReg 0 0, .shr 0 0, .subnReg 0 0, .shl 0 0, .sneReg 0 0, .ldI 0, .jpV0 0,
    .rnd 0 0, .drw 0 0 0, .skp 0, .sknp 0, .ldVxDt 0, .ldVxK 0, .ldDtVx 0, .ldStVx 0, .addIVx 0, .ldFVx 0, .ldBVx 0,
    .storeRegs 0, .loadRegs 0]

/-- The opcode map: the 34 rows in the order of R63. -/
def opcodeMap : List OpRow := rowExamples.map rowOf

/-! ## The host's question: the instruction of a word numbered as the opcode table numbers it -/

/-- The instruction the decoder reads from an instruction whose bits are `w` (bit 0 the least significant bit of its one
16-bit word): the word is laid out in memory order, big-endian, and given to the decoder. None where the bits do not fit. -/
def decodeTableWord (nbits w : Nat) : Option Instr :=
  if nbits ≤ 16 ∧ w < 2 ^ nbits then
    match decode (bytesOfWord (BitVec.ofNat 16 w)) with
    | .ok (i, _) => some i
    | .error _ => none
  else none

end Sys2Proof
end

