-- ==== Sys2Proof/Machine/Control.lean ====
section
/-! DEFINITION. Control transfer: 00EE, 1NNN, 2NNN, BNNN (spec/41_control.md R100 to R104). Each sets pc itself (R84). -/

namespace Sys2Proof.Machine

/-- 00EE RET (R100): STACK_UNDERFLOW when SP = 0, else pop into pc. -/
def execRet (s : State) : Result :=
  if s.sp.val = 0 then fail s .stackUnderflow 0x00EE
  else done (s.pop.setPc s.topEntry)

/-- 1NNN JP nnn (R101). -/
def execJp (nnn : Addr12) (s : State) : Result := done (s.setPc (nnn.setWidth 16))

/-- 2NNN CALL nnn (R102, R104): STACK_OVERFLOW with the word when SP = 16, else push the return address pc + 2 and jump. -/
def execCall (nnn : Addr12) (s : State) : Result :=
  if room : s.sp.val < 16 then done ((s.push (s.pc + 2) room).setPc (nnn.setWidth 16))
  else fail s .stackOverflow (encode (.call nnn)).toNat

/-- BNNN JP V0, nnn (R103): the sum is kept whole in 16 bits. -/
def execJpV0 (nnn : Addr12) (s : State) : Result := done (s.setPc (u16 (nnn.toNat + (s.reg reg0).toNat)))

end Sys2Proof.Machine
end

