-- ==== Sys2Proof/Machine/Display.lean ====
section
/-! DEFINITION. Display: 00E0 and DXYN (spec/45_display.md R190 to R192). -/

namespace Sys2Proof.Machine

/-- 00E0 CLS (R191): every cell 0, DIRTY 1. -/
def execCls (s : State) : Result := done (s.setFb 0).advance

/-- DXYN DRW Vx, Vy, n (R192): the sprite's memory is checked first, then the grid, then the set bits are XORed, DIRTY is set and
VF receives the collision flag last. -/
def execDrw (x y : Reg) (n : Nibble) (s : State) : Result :=
  checked s (indexAddresses s n.toNat)
    (let cells := spriteCells (s.reg x).toNat (s.reg y).toNat (spriteRows s n.toNat)
     match cells.find? offGrid with
     | some p => fail s .drawOutOfRange (drawInfo p)
     | none =>
       let drawn := drawCells s.fb cells
       done ((s.setFb drawn.1).setFlag drawn.2).advance)

end Sys2Proof.Machine
end

