-- ==== Sys2Proof/Machine/Index.lean ====
section
/-! DEFINITION. The index register and memory transfers: ANNN, FX1E, FX29, FX33, FX55, FX65 (spec/44_index_memory.md R170 to
R175). Addresses are checked before any write (R44). -/

namespace Sys2Proof.Machine

/-- ANNN LD I, nnn (R170). -/
def execLdI (nnn : Addr12) (s : State) : Result := done (s.setI (nnn.setWidth 16)).advance

/-- FX1E ADD I, Vx (R171, D17): the flag is computed on the new 16-bit I and written last. -/
def execAddIVx (x : Reg) (s : State) : Result :=
  let t := u16 (s.i.toNat + (s.reg x).toNat)
  done ((s.setI t).setFlag (indexAbove t)).advance

/-- FX29 LD F, Vx (R172): the whole 8-bit VX, not masked. -/
def execLdFVx (x : Reg) (s : State) : Result := done (s.setI (u16 ((s.reg x).toNat * 5))).advance

/-- FX33 LD B, Vx (R173): hundreds, tens and units to MEM[I], MEM[I+1], MEM[I+2]; I is kept. -/
def execLdBVx (x : Reg) (s : State) : Result :=
  checked s (indexAddresses s 3) (done (s.writeBytes s.i.toNat (decimalDigits (s.reg x))).advance)

/-- FX55 LD [I], Vx (R174): V0 to VX to MEM[I] up, then I <- u16(I + X + 1). -/
def execStoreRegs (x : Reg) (s : State) : Result :=
  checked s (indexAddresses s (x.val + 1))
    (done ((storeAll s (regsTo x)).setI (u16 (s.i.toNat + x.val + 1))).advance)

/-- FX65 LD Vx, [I] (R175): V0 to VX from MEM[I] up, then I <- u16(I + X + 1). -/
def execLoadRegs (x : Reg) (s : State) : Result :=
  checked s (indexAddresses s (x.val + 1))
    (done ((loadAll s (regsTo x)).setI (u16 (s.i.toNat + x.val + 1))).advance)

end Sys2Proof.Machine
end

