-- ==== Sys2Proof/Machine/KeypadTimers.lean ====
section
/-! DEFINITION. Keypad and timers: EX9E, EXA1, FX07, FX0A, FX15, FX18 (spec/46_timers_keypad.md R210 to R215). The keypad
snapshot of the step is KEY as the host last left it (R244). The timer decay is the step's (Cycle.lean), after these. -/

namespace Sys2Proof.Machine

/-- The key VX indexes, the whole 8-bit VX, then the rest; KEY_INDEX_OUT_OF_RANGE with VX when it exceeds 0xF (R210, R211,
R237). -/
def withKey (s : State) (x : Reg) (rest : Fin 16 → Result) : Result :=
  if h : (s.reg x).toNat < 16 then rest ⟨(s.reg x).toNat, h⟩
  else fail s .keyIndexOutOfRange (s.reg x).toNat

/-- EX9E SKP Vx (R210). -/
def execSkp (x : Reg) (s : State) : Result := withKey s x fun k => done (s.skipIf (s.keyDown k))

/-- EXA1 SKNP Vx (R211). -/
def execSknp (x : Reg) (s : State) : Result := withKey s x fun k => done (s.skipIf (!s.keyDown k))

/-- FX07 LD Vx, DT (R212): DT before this step's decay. -/
def execLdVxDt (x : Reg) (s : State) : Result := done (s.setReg x s.dt).advance

/-- FX0A LD Vx, K (R213): with no key down the step blocks and no state changes (R87); else VX is the lowest key down. -/
def execLdVxK (x : Reg) (s : State) : Result :=
  match s.lowestKey with
  | none => done s
  | some k => done (s.setReg x (u8 k.val)).advance

/-- FX15 LD DT, Vx (R214). -/
def execLdDtVx (x : Reg) (s : State) : Result := done (s.setDt (s.reg x)).advance

/-- FX18 LD ST, Vx (R215). -/
def execLdStVx (x : Reg) (s : State) : Result := done (s.setSt (s.reg x)).advance

end Sys2Proof.Machine
end

