-- ==== Sys2Proof/Machine/Skip.lean ====
section
/-! DEFINITION. Conditional skips: 3XNN, 4XNN, 5XY0, 9XY0 (spec/42_skip.md R120 to R124). The keypad skips are in
KeypadTimers.lean. -/

namespace Sys2Proof.Machine

/-- 3XNN SE Vx, nn (R121). -/
def execSeImm (x : Reg) (nn : Byte) (s : State) : Result := done (s.skipIf (s.reg x == nn))

/-- 4XNN SNE Vx, nn (R122). -/
def execSneImm (x : Reg) (nn : Byte) (s : State) : Result := done (s.skipIf (s.reg x != nn))

/-- 5XY0 SE Vx, Vy (R123). -/
def execSeReg (x y : Reg) (s : State) : Result := done (s.skipIf (s.reg x == s.reg y))

/-- 9XY0 SNE Vx, Vy (R124). -/
def execSneReg (x y : Reg) (s : State) : Result := done (s.skipIf (s.reg x != s.reg y))

end Sys2Proof.Machine
end

