-- ==== Sys2Proof/Machine/Fetch.lean ====
section
/-! DEFINITION. Instruction fetch (spec/40_step_cycle.md R81, spec/20_memory.md R44, R45, R50). -/

namespace Sys2Proof.Machine

/-- The two addresses of the fetch, pc and pc + 1, natural numbers without wrap-around (R44, R81). -/
def fetchAddresses (s : State) : List Nat := addressesFrom s.pc.toNat 2

/-- The word at pc, big-endian (R45, R81), or the lowest of pc, pc + 1 that is 4096 or more. -/
def fetch (s : State) : Except Nat Word :=
  match lowestOutOfRange (fetchAddresses s) with
  | some a => .error a
  | none => .ok (wordOfBytes (s.readMem s.pc.toNat) (s.readMem (s.pc.toNat + 1)))

/-- A word placed where the next fetch reads it, its bits 15:8 at pc; nothing is placed where the fetch cannot reach (R81). -/
def placeWord (s : State) (w : Word) : State :=
  if s.pc.toNat + 1 < Config.memSize then s.writeBytes s.pc.toNat (bytesOfWord w) else s

end Sys2Proof.Machine
end

