-- ==== Sys2Proof/Machine/Cycle.lean ====
section
/-! DEFINITION. The whole STEP (spec/40_step_cycle.md R80 to R89): halted check, fetch, decode, execute, timer decay, and the
result the step returns (R86). It is a function of the state, in which KEY stands, and of the byte RAND (R89, R247), an argument,
as is the timer mode (spec/00_scope.md R6). -/

namespace Sys2Proof.Machine

/-- execute(ins, op, KEY, RAND) of R83 and R89: CXNN uses the byte RAND supplied with the step, and every other instruction ignores
it (R247). -/
def execute (rand : Byte) (i : Instr) (s : State) : Result :=
  match i with
  | .rnd x nn => rndWith rand x nn s
  | .cls | .ret | .jp _ | .call _ | .seImm _ _ | .sneImm _ _ | .seReg _ _ | .ldImm _ _ | .addImm _ _ => exec i s
  | .ldReg _ _ | .orReg _ _ | .andReg _ _ | .xorReg _ _ | .addReg _ _ | .subReg _ _ | .shr _ _ | .subnReg _ _ => exec i s
  | .shl _ _ | .sneReg _ _ | .ldI _ | .jpV0 _ | .drw _ _ _ | .skp _ | .sknp _ | .ldVxDt _ | .ldVxK _ => exec i s
  | .ldDtVx _ | .ldStVx _ | .addIVx _ | .ldFVx _ | .ldBVx _ | .storeRegs _ | .loadRegs _ => exec i s

/-- The instruction blocks: FX0A with no key down, and no other (R87, R213). -/
def blocks (i : Instr) (s : State) : Bool :=
  match i with
  | .ldVxK _ => s.lowestKey.isNone
  | .cls | .ret | .jp _ | .call _ | .seImm _ _ | .sneImm _ _ | .seReg _ _ | .ldImm _ _ | .addImm _ _ => false
  | .ldReg _ _ | .orReg _ _ | .andReg _ _ | .xorReg _ _ | .addReg _ _ | .subReg _ _ | .shr _ _ | .subnReg _ _ => false
  | .shl _ _ | .sneReg _ _ | .ldI _ | .jpV0 _ | .rnd _ _ | .drw _ _ _ | .skp _ | .sknp _ | .ldVxDt _ => false
  | .ldDtVx _ | .ldStVx _ | .addIVx _ | .ldFVx _ | .ldBVx _ | .storeRegs _ | .loadRegs _ => false

/-- The result of a step that executed `i` from a running state `s` to `t` (R86): FAULT if it latched one, BLOCKED if `i` waits
for a key, else COMPLETED. -/
def resultOf (i : Instr) (s t : State) : StepResult :=
  if t.halted then .fault t.faultCode else if blocks i s then .blocked else .completed

/-- After execute: the timer decay, in PER_INSTRUCTION mode and of a COMPLETED step only (R85, R89, R245, R246). -/
def finish (mode : Config.TimerMode) (i : Instr) (s t : State) : State × StepResult :=
  (if resultOf i s t = .completed ∧ mode = .perInstruction then t.decay else t, resultOf i s t)

/-- The end of a step that raised a fault before any instruction ran (R81, R82, R88). -/
def faulted (s : State) (kind : FaultKind) (info : Nat) : State × StepResult := (s.raise kind info, .fault kind.code)

/-- Decode and execute a fetched word (R82, R83, R89). -/
def runWord (mode : Config.TimerMode) (rand : Byte) (s : State) (op : Word) : Host.Outcome (State × StepResult) Fault Refusal :=
  match decodeWord op with
  | none => .next (faulted s .unknownOpcode op.toNat)
  | some i =>
    match execute rand i s with
    | .next t => .next (finish mode i s t)
    | .fault r => .fault r
    | .refused r => .refused r

/-- STEP(state, KEY, RAND) (R89): the next state and the step's result. A halted core changes nothing and returns FAULT with what is
latched (R80): here the outcome `fault`, whose state is the one before (log 5). -/
def cycle (mode : Config.TimerMode) (rand : Byte) (s : State) : Host.Outcome (State × StepResult) Fault Refusal :=
  if s.halted then .fault (.halted s.faultCode s.faultInfo)
  else
    match fetch s with
    | .error a => .next (faulted s .memoryOutOfRange a)
    | .ok op => runWord mode rand s op

/-- STEP without the result it returns. -/
def stepIn (mode : Config.TimerMode) (rand : Byte) (s : State) : Result :=
  match cycle mode rand s with
  | .next (t, _) => .next t
  | .fault r => .fault r
  | .refused r => .refused r

end Sys2Proof.Machine
end

