-- ==== Sys2Proof/Machine/Step.lean ====
section
/-! DEFINITION. The step of the machine: STEP in the spec's timer mode (spec/40_step_cycle.md R80, R89; spec/00_scope.md R6). -/

namespace Sys2Proof.Machine

/-- One STEP, in TIMER_MODE `timerMode` (PER_INSTRUCTION, R6), its byte RAND the free one the counter names, since this step is
given no byte (log 1). -/
def step (s : State) : Host.Outcome State Fault Refusal := stepIn timerMode s.randByte s

/-- The state with the instruction of bits `w` stored where the next fetch reads it (log 8): its one 16-bit word, the bits above
`nbits` zero, big-endian at pc and pc + 1 (R45, R81). -/
def State.withFetchWord (s : State) (nbits w : Nat) : State := placeWord s (BitVec.ofNat 16 (w % 2 ^ nbits))

end Sys2Proof.Machine
end

