-- ==== Sys2Proof/Machine/HostOps.lean ====
section
/-! DEFINITION. The host interface (spec/60_exceptions.md R250, R251; spec/70_reset_and_hazards.md R270 to R274): INIT, LOAD,
SET_KEYS, STEP, TICK, PRESENT, READ_STATUS, each atomic and between steps. -/

namespace Sys2Proof.Machine

/-- The host's operations and their inputs (R250); STEP's is the byte RAND (R247). -/
inductive HostOp where
  | init
  | load (bytes : List Byte)
  | setKeys (keys : Vector Bool 16)
  | step (rand : Byte)
  | tick
  | present
  | readStatus
  deriving DecidableEq, Repr

/-- What an operation returns to the host (R250). -/
inductive HostOutput where
  /-- INIT, SET_KEYS and TICK return nothing. -/
  | nothing
  /-- LOAD succeeded: OK. -/
  | ok
  /-- LOAD failed: CAPACITY_EXCEEDED (R239, R273). -/
  | capacityExceeded
  /-- The result of a STEP (R86). -/
  | stepped (result : StepResult)
  /-- PRESENT: the 2048 cells of FB (R249). -/
  | cells (fb : Framebuffer)
  /-- READ_STATUS: DIRTY, ST, HALTED, FAULT_CODE, FAULT_INFO (R248, R250). -/
  | status (dirty : Bool) (st : Byte) (halted : Bool) (code : BitVec 8) (info : BitVec 32)
  deriving DecidableEq, Repr

/-- LOAD (R272, R273): the bytes to 0x200 up and nothing else; more than 3584 bytes copy nothing and halt the core. -/
def hostLoad (bytes : List Byte) (s : State) : State × HostOutput :=
  if bytes.length ≤ Config.progMax then (s.writeBytes Config.progBase bytes, .ok)
  else (s.raise .capacityExceeded bytes.length, .capacityExceeded)

/-- SET_KEYS (R250): KEY[k] <- keys[k] for every k. -/
def hostSetKeys (keys : Vector Bool 16) (s : State) : State := { s with key := keys }

/-- TICK in EXTERNAL_TICK mode (R246): both timers count down, unless halted (D33). -/
def hostTick (s : State) : State := if s.halted then s else s.decay

/-- PRESENT (R250): DIRTY <- 0. -/
def hostPresent (s : State) : State := { s with dirty := false }

/-- STEP with the byte RAND (R80, R89): of a halted core, no change and FAULT with the latched code. -/
def hostStep (mode : Config.TimerMode) (rand : Byte) (s : State) : Host.Outcome (State × HostOutput) Fault Refusal :=
  match cycle mode rand s with
  | .next (t, r) => .next (t, .stepped r)
  | .fault (.halted code _) => .next (s, .stepped (.fault code))
  | .refused r => .refused r

/-- One host operation: the state after it and what it returns (R250). TICK is not available in PER_INSTRUCTION mode (log 10). -/
def hostOp (mode : Config.TimerMode) (o : HostOp) (s : State) : Host.Outcome (State × HostOutput) Fault Refusal :=
  match o with
  | .init => .next (s.init, .nothing)
  | .load bytes => .next (hostLoad bytes s)
  | .setKeys keys => .next (hostSetKeys keys s, .nothing)
  | .step rand => hostStep mode rand s
  | .tick =>
    match mode with
    | .perInstruction => .refused .tickNotAvailable
    | .externalTick => .next (hostTick s, .nothing)
  | .present => .next (hostPresent s, .cells s.fb)
  | .readStatus => .next (s, .status s.dirty s.st s.halted s.faultCode s.faultInfo)

/-- A sequence of host operations from a state, the state after the last; none where one is refused. Every run of the machine
is one, and begins with INIT (R271, R274). -/
def hostRun (mode : Config.TimerMode) : List HostOp → State → Option State
  | [], s => some s
  | o :: os, s =>
    match hostOp mode o s with
    | .next (t, _) => hostRun mode os t
    | .fault _ => none
    | .refused _ => none

end Sys2Proof.Machine
end

