-- ==== Sys2Proof/Safety.lean ====
section
/-! DEFINITION. The terms claims use: the parts of the state and what it means that an operation leaves them unchanged (frames),
a safe run, the invariant every step keeps, which instructions write what, and the set bits of a sprite. -/

namespace Sys2Proof.Machine

/-! ## Frames -/

/-- One part of the state (R10): a register, a stack entry, a memory byte, a pixel, a key, or a single register of its own. -/
inductive Part where
  | reg (r : Reg)
  | pc
  | index
  | sp
  | stackEntry (k : Fin 16)
  | dt
  | st
  | memByte (a : Nat)
  | pixel (idx : Nat)
  | dirty
  | key (k : Fin 16)
  | halted
  | faultCode
  | faultInfo
  | draws

/-- A part has the same value in both states; a memory byte is compared as it reads. -/
def Part.same (s t : State) : Part → Prop
  | .reg r => t.reg r = s.reg r
  | .pc => t.pc = s.pc
  | .index => t.i = s.i
  | .sp => t.sp = s.sp
  | .stackEntry k => t.stack[k] = s.stack[k]
  | .dt => t.dt = s.dt
  | .st => t.st = s.st
  | .memByte a => t.readMem a = s.readMem a
  | .pixel idx => t.cell idx = s.cell idx
  | .dirty => t.dirty = s.dirty
  | .key k => t.keyDown k = s.keyDown k
  | .halted => t.halted = s.halted
  | .faultCode => t.faultCode = s.faultCode
  | .faultInfo => t.faultInfo = s.faultInfo
  | .draws => t.draws = s.draws

/-- From `s` to `t` every part of the state outside `changed` is unchanged. -/
def UnchangedOutside (changed : Part → Prop) (s t : State) : Prop := ∀ p : Part, ¬ changed p → p.same s t

/-- The status latch (R24). -/
def latchPart (p : Part) : Prop := p = .halted ∨ p = .faultCode ∨ p = .faultInfo

/-- `t` is `s` with a fault of the given code (R232) and information latched and nothing else changed (R231). -/
def FaultLatched (code info : Nat) (s t : State) : Prop :=
  t.halted = true ∧ t.faultCode = BitVec.ofNat 8 code ∧ t.faultInfo = BitVec.ofNat 32 info ∧ UnchangedOutside latchPart s t

/-! ## Safe runs and the invariant -/

/-- The core runs: no fault is latched (R24, R80). A safe run is one all of whose states run. -/
abbrev State.running (s : State) : Prop := s.halted = false

/-- The word at pc, big-endian (R45), when the fetch is in range (R81). -/
def State.wordAtPc (s : State) : Word := u16 (256 * (s.readMem s.pc.toNat).toNat + (s.readMem (s.pc.toNat + 1)).toNat)

/-- The fetch is in range (R81). -/
abbrev State.fetchable (s : State) : Prop := s.pc.toNat + 1 < Config.memSize

/-- The latch is legal (R24, R26, R232): a code of 1 to 7 when halted, all zero when not. -/
abbrev State.latchLegal (s : State) : Prop :=
  if s.halted then 1 ≤ s.faultCode.toNat ∧ s.faultCode.toNat ≤ 7 else s.faultCode = 0 ∧ s.faultInfo = 0

/-- The invariant: memory is in canonical form and holds no address of 4096 or more (R40), pc is at most 0x10FE (R15), every stack
entry is at most 0x1000 (R100), the latch is legal. SP within 0 to 16 (R17) and one-bit cells (R21) hold by their types. -/
abbrev State.Inv (s : State) : Prop :=
  s.mem.wf ∧ s.pc.toNat ≤ 0x10FE ∧ (∀ k : Fin 16, s.stack[k].toNat ≤ 0x1000) ∧ s.latchLegal

/-- Every piece of state has its value after INIT (R26), but for the model's own counter. -/
def State.atReset (s : State) : Prop :=
  (∀ r, s.reg r = 0) ∧ s.pc = 0x200 ∧ s.i = 0 ∧ s.sp = 0 ∧ (∀ k : Fin 16, s.stack[k] = 0) ∧ s.dt = 0 ∧ s.st = 0 ∧
    (∀ a, a < 80 → s.readMem a = font.getD a 0) ∧ (∀ a, 80 ≤ a → a < 4096 → s.readMem a = 0) ∧
    (∀ idx, idx < 2048 → s.cell idx = false) ∧ s.dirty = false ∧ (∀ k, s.keyDown k = false) ∧
    s.halted = false ∧ s.faultCode = 0 ∧ s.faultInfo = 0

/-! ## Which instructions write what -/

/-- The instructions that write VF as a flag (R13). -/
def writesFlag : Instr → Bool
  | .addReg _ _ | .subReg _ _ | .shr _ _ | .subnReg _ _ | .shl _ _ | .drw _ _ _ | .addIVx _ => true
  | _ => false

/-- The instructions that write VF because they name it as their destination register (R13). -/
def writesVFAsData : Instr → Bool
  | .ldImm x _ | .addImm x _ | .ldReg x _ | .orReg x _ | .andReg x _ | .xorReg x _ | .rnd x _ | .ldVxDt x | .ldVxK x
  | .loadRegs x => x = regF
  | _ => false

/-- The instructions that write I (R16). -/
def writesIndex : Instr → Bool
  | .ldI _ | .addIVx _ | .ldFVx _ | .storeRegs _ | .loadRegs _ => true
  | _ => false

/-! ## The random byte -/

/-- `t` is `s` after CXNN with the byte `rand` (R152): VX is the byte under the mask nn, pc + 2, nothing else; the counter of RAND
bytes, the model's own, counts one. -/
def RndResult (rand : Byte) (x : Reg) (nn : Byte) (s t : State) : Prop :=
  (∀ k, k < 8 → (t.reg x).getLsbD k = (rand.getLsbD k && nn.getLsbD k)) ∧ (nn = 0 → t.reg x = 0) ∧
    (nn = 0xFF → t.reg x = rand) ∧ t.draws = s.draws + 1 ∧ t.pc = u16 (s.pc.toNat + 2) ∧
    UnchangedOutside (fun p => p = .reg x ∨ p = .pc ∨ p = .draws) s t

/-! ## Sprites -/

/-- The sprite of DXYN has a set bit in row r and column c: bit 7 - c of the byte at I + r (R190). -/
def spriteBit (s : State) (n : Nibble) (r c : Nat) : Prop :=
  r < n.toNat ∧ c < 8 ∧ (s.readMem (s.i.toNat + r)).getLsbD (7 - c) = true

/-- A set bit of the sprite falls off the grid when drawn at (V[x], V[y]) (R192, R238). -/
def bitOffGrid (s : State) (x y : Reg) (n : Nibble) (r c : Nat) : Prop :=
  spriteBit s n r c ∧ (64 ≤ (s.reg x).toNat + c ∨ 32 ≤ (s.reg y).toNat + r)

/-- The sprite drawn at (V[x], V[y]) has a set bit on the cell in column px and row py. -/
def covers (s : State) (x y : Reg) (n : Nibble) (px py : Nat) : Prop :=
  ∃ r c, spriteBit s n r c ∧ px = (s.reg x).toNat + c ∧ py = (s.reg y).toNat + r

end Sys2Proof.Machine
end

