-- ==== Sys2Proof/Certificates/Slice0/Obligations.lean ====
section
/-! DEFINITION. The statements for the provers, one def Obligations.<Name> : Prop each; OBLIGATIONS.json lists them. Rule numbers
R<n> are those of spec/. Frames are said by UnchangedOutside (Sys2Proof/Safety.lean): the parts of the state listed may change,
every other part is as before, memory bytes compared as they read. Statements about an instruction that completes say what exec
answers; the timer decay of the step comes after it (CompletedStepDecaysTimers). -/

open Sys2Proof Sys2Proof.Machine

/-! ## Encoding -/

/-- A few words written out from the encodings of R62 and R63, one or more of each family, and one unrecognized word of each
family that has one (R65). A sanity check. -/
def Obligations.SampleWordsDecode : Prop :=
  decodeWord 0x00E0 = some .cls ∧ decodeWord 0x00EE = some .ret ∧ decodeWord 0x1234 = some (.jp 0x234) ∧
  decodeWord 0x3005 = some (.seImm 0 0x05) ∧ decodeWord 0x9120 = some (.sneReg 1 2) ∧
  decodeWord 0x823E = some (.shl 2 3) ∧ decodeWord 0xA300 = some (.ldI 0x300) ∧ decodeWord 0xD015 = some (.drw 0 1 5) ∧
  decodeWord 0xE19E = some (.skp 1) ∧ decodeWord 0xF30A = some (.ldVxK 3) ∧ decodeWord 0xF265 = some (.loadRegs 2) ∧
  decodeWord 0x00E1 = none ∧ decodeWord 0x5121 = none ∧ decodeWord 0x8128 = none ∧ decodeWord 0xE19F = none ∧
  decodeWord 0xF030 = none

/-- Decode and encode agree (R61, R63, R69): every instruction, with every operand at every value its field admits, is read back
from its word. No bit of an encoding is dropped. -/
def Obligations.DecodeOfEncodeIsIdentity : Prop :=
  ∀ i : Instr, i.wellFormed = true → decodeWord (encode i) = some i

/-- Every mnemonic stands for exactly one encoding once its operands are given (R68): a word that decodes is the word of the
instruction it decodes to. -/
def Obligations.EncodeOfDecodedIsTheWord : Prop :=
  ∀ (op : Word) (i : Instr), decodeWord op = some i → encode i = op

/-- The opcode map (R63): a word is decoded as the instruction of the row whose (op & mask) == match, and is no instruction when
there is no such row; at most one row matches. -/
def Obligations.OpcodeMapDecidesDecoding : Prop :=
  (∀ op i, decodeWord op = some i → rowOf i ∈ opcodeMap ∧ (rowOf i).holds op = true) ∧
  (∀ op r, r ∈ opcodeMap → r.holds op = true → ∃ i, decodeWord op = some i ∧ rowOf i = r) ∧
  (∀ op r r', r ∈ opcodeMap → r' ∈ opcodeMap → r.holds op = true → r'.holds op = true → r = r') ∧
  opcodeMap.length = 34

/-- The decoder on bytes (R45, R60): the first two bytes, the first in bits 15:8, are the word; the rest is left; fewer than two
bytes and an unrecognized word are told apart by name. -/
def Obligations.DecodeReadsTwoBytesBigEndian : Prop :=
  ∀ (hi lo : Byte) (rest : List Byte),
    (∀ i, decodeWord (u16 (256 * hi.toNat + lo.toNat)) = some i → decode (hi :: lo :: rest) = .ok (i, rest)) ∧
    (decodeWord (u16 (256 * hi.toNat + lo.toNat)) = none →
      decode (hi :: lo :: rest) = .error (.unknownOpcode (u16 (256 * hi.toNat + lo.toNat)))) ∧
    decode [hi] = .error .tooShort ∧ decode [] = .error .tooShort

/-! ## The step -/

/-- A step runs the decoded instruction (R81, R82, R83, R89): on a running core whose two bytes at pc decode to `i`, the step is
exec of `i` at that state, followed by `finish`, which decays the timers of a completed instruction in PER_INSTRUCTION mode. The
cycle, of either mode and every byte RAND, is so with `execute`, which is exec but that CXNN takes the byte supplied. -/
def Obligations.StepRunsTheDecodedInstruction : Prop :=
  ∀ (s : State) (i : Instr), s.running → s.fetchable → decodeWord s.wordAtPc = some i →
    (∀ t, exec i s = .next t → step s = .next (finish timerMode i s t).1) ∧
    (∀ mode rand t, execute rand i s = .next t → cycle mode rand s = .next (finish mode i s t)) ∧
    execute s.randByte i s = exec i s ∧ ∀ rand, (∀ x nn, i ≠ .rnd x nn) → execute rand i s = exec i s

/-- Fetch (R81): the word is read from pc and pc + 1, big-endian; when pc + 1 >= 4096 the step raises MemoryOutOfRange with
FAULT_INFO the lowest out-of-range address of the two. -/
def Obligations.FetchReadsTheWordOrFaults : Prop :=
  ∀ (s : State),
    (s.pc.toNat + 1 < 4096 →
      fetch s = .ok (u16 (256 * (s.readMem s.pc.toNat).toNat + (s.readMem (s.pc.toNat + 1)).toNat))) ∧
    (s.running → 4096 ≤ s.pc.toNat + 1 →
      ∃ t, step s = .next t ∧ FaultLatched 4 (if s.pc.toNat < 4096 then 4096 else s.pc.toNat) s t)

/-- Unknown opcode (R82, R233): a fetched word that belongs to no row of the opcode map halts the core with code 1 and the word;
pc and everything else stay. -/
def Obligations.UnrecognizedWordFaults : Prop :=
  ∀ (s : State), s.running → s.fetchable → (∀ r ∈ opcodeMap, r.holds s.wordAtPc = false) →
    ∃ t, step s = .next t ∧ FaultLatched 1 s.wordAtPc.toNat s t

/-- A word placed for the host's question is the word the next step fetches and the one the decoder is asked about (R45, R81). -/
def Obligations.PlacedWordIsFetched : Prop :=
  ∀ (s : State) (w : Nat), s.mem.wf → s.fetchable → w < 65536 →
    (s.withFetchWord 16 w).wordAtPc.toNat = w ∧ fetch (s.withFetchWord 16 w) = .ok (u16 w) ∧
    decodeTableWord 16 w = decodeWord (u16 w) ∧
    UnchangedOutside (fun p => p = .memByte s.pc.toNat ∨ p = .memByte (s.pc.toNat + 1)) s (s.withFetchWord 16 w)

/-- A halted core (R80): a STEP changes no state and returns FAULT with the latched FAULT_CODE. -/
def Obligations.HaltedStepReturnsTheLatchedFault : Prop :=
  ∀ (s : State), s.halted = true →
    step s = .fault (.halted s.faultCode s.faultInfo) ∧
      ∀ mode rand, hostOp mode (.step rand) s = .next (s, .stepped (.fault s.faultCode))

/-- No step of a running core is stuck or refused (R86): it answers a state and one of the three results. -/
def Obligations.RunningCoreAlwaysSteps : Prop :=
  ∀ (mode : Config.TimerMode) (rand : Byte) (s : State), s.running → ∃ t r, cycle mode rand s = .next (t, r)

/-- Timer decay (R85): after a COMPLETED step in PER_INSTRUCTION mode each timer is one less than the instruction left it,
floored at 0, and nothing else changes; in EXTERNAL_TICK mode the step leaves the instruction's state as it is; and a step that is
BLOCKED or FAULT decays nothing. -/
def Obligations.CompletedStepDecaysTimers : Prop :=
  ∀ (mode : Config.TimerMode) (rand : Byte) (s u : State) (r : StepResult), cycle mode rand s = .next (u, r) →
    (r = .completed → ∃ i t, decodeWord s.wordAtPc = some i ∧ execute rand i s = .next t ∧
      (mode = .perInstruction → u.dt.toNat = t.dt.toNat - 1 ∧ u.st.toNat = t.st.toNat - 1 ∧
        UnchangedOutside (fun p => p = .dt ∨ p = .st) t u) ∧
      (mode = .externalTick → u = t)) ∧
    (r ≠ .completed → u.dt = s.dt ∧ u.st = s.st)

/-- A BLOCKED step changes no state at all, only FX0A blocks, and only when no key is down; and then it does block (R87). -/
def Obligations.OnlyWaitForKeyBlocks : Prop :=
  ∀ (mode : Config.TimerMode) (rand : Byte) (s : State),
    (∀ u, cycle mode rand s = .next (u, .blocked) →
      u = s ∧ (∃ x, decodeWord s.wordAtPc = some (.ldVxK x)) ∧ ∀ k, s.keyDown k = false) ∧
    (∀ x, s.running → s.fetchable → decodeWord s.wordAtPc = some (.ldVxK x) → (∀ k, s.keyDown k = false) →
      cycle mode rand s = .next (s, .blocked))

/-- A FAULT step changes no state except the status latch (R88, R231): HALTED is 1, FAULT_CODE is the code returned, one of 1 to 6
(7 is not raised by a step, R239), and pc and every other piece of state is as before. -/
def Obligations.FaultStepChangesOnlyTheLatch : Prop :=
  ∀ (mode : Config.TimerMode) (rand : Byte) (s u : State) (code : BitVec 8), cycle mode rand s = .next (u, .fault code) →
    u.halted = true ∧ u.faultCode = code ∧ 1 ≤ code.toNat ∧ code.toNat ≤ 6 ∧ UnchangedOutside latchPart s u

/-- A step that does not return FAULT leaves the latch as it was (R24, R86). -/
def Obligations.OnlyFaultsWriteTheLatch : Prop :=
  ∀ (mode : Config.TimerMode) (rand : Byte) (s u : State) (r : StepResult), cycle mode rand s = .next (u, r) →
    (∀ code, r ≠ .fault code) →
    u.halted = false ∧ u.faultCode = s.faultCode ∧ u.faultInfo = s.faultInfo

/-! ## Invariants -/

/-- Every step keeps the invariant, in both timer modes and with every byte RAND: memory canonical and below 4096, pc at
most 0x10FE, stack entries at most 0x1000, the latch legal (R15, R24, R40, R100). -/
def Obligations.StepKeepsTheInvariant : Prop :=
  (∀ s t : State, s.Inv → step s = .next t → t.Inv) ∧
  (∀ (mode : Config.TimerMode) (rand : Byte) (s t : State), s.Inv → stepIn mode rand s = .next t → t.Inv)

/-- The invariant holds at reset. -/
def Obligations.InvariantHoldsAtReset : Prop := State.reset.Inv

/-- Every host operation keeps the invariant, from every state and in both timer modes (R250, R251). -/
def Obligations.HostOperationsKeepTheInvariant : Prop :=
  ∀ (mode : Config.TimerMode) (o : HostOp) (s t : State) (out : HostOutput),
    s.Inv → hostOp mode o s = .next (t, out) → t.Inv

/-- Only INIT leaves the halted state (R24, R241, R254, R270). -/
def Obligations.OnlyInitLeavesTheHaltedState : Prop :=
  ∀ (mode : Config.TimerMode) (o : HostOp) (s t : State) (out : HostOutput),
    s.halted = true → hostOp mode o s = .next (t, out) → o ≠ .init → t.halted = true ∧ t.pc = s.pc ∧ t.v = s.v

/-! ## Whole-machine rules: what writes what, with every byte RAND; exec is the case of the free byte
(StepRunsTheDecodedInstruction) -/

/-- VF (R13): an instruction that completes changes VF only if it is one of the seven that write it as a flag or names VF as its
destination; the seven leave 0 or 1 in it; VF is 0 at reset. -/
def Obligations.OnlyFlagInstructionsWriteVF : Prop :=
  (∀ (rand : Byte) (i : Instr) (s t : State), execute rand i s = .next t → writesFlag i = false → writesVFAsData i = false →
    t.reg regF = s.reg regF) ∧
  (∀ (rand : Byte) (i : Instr) (s t : State), execute rand i s = .next t → s.running → t.running → writesFlag i = true →
    t.reg regF = 0 ∨ t.reg regF = 1) ∧
  State.reset.reg regF = 0

/-- I is written by ANNN, FX1E, FX29, FX55 and FX65 only (R16); SP by 2NNN, which increments it, and 00EE, which decrements it,
only (R17); the stack entries by 2NNN only, a pop keeping the entry (R18). -/
def Obligations.OnlyTheirInstructionsWriteIndexAndStack : Prop :=
  ∀ (rand : Byte) (i : Instr) (s t : State), execute rand i s = .next t →
    (writesIndex i = false → t.i = s.i) ∧
    (t.sp ≠ s.sp → (i = .ret ∧ t.sp.val + 1 = s.sp.val) ∨ ∃ nnn, i = .call nnn ∧ t.sp.val = s.sp.val + 1) ∧
    (t.stack ≠ s.stack → ∃ nnn, i = .call nnn)

/-- The framebuffer and DIRTY are written by 00E0 and DXYN only, and no instruction clears DIRTY (R21, R22, R53); no instruction
writes the keypad (R23). -/
def Obligations.OnlyDisplayInstructionsWriteTheScreen : Prop :=
  ∀ (rand : Byte) (i : Instr) (s t : State), execute rand i s = .next t →
    (t.fb ≠ s.fb ∨ t.dirty ≠ s.dirty → (i = .cls ∨ ∃ x y n, i = .drw x y n) ∧ t.dirty = true) ∧ t.key = s.key

/-- Memory is written by FX33 and FX55 only (R43), DT by FX15 and ST by FX18 only, but for the decay (R19, R20). -/
def Obligations.OnlyTheirInstructionsWriteMemoryAndTimers : Prop :=
  ∀ (rand : Byte) (i : Instr) (s t : State), execute rand i s = .next t →
    (t.mem ≠ s.mem → ∃ x, i = .ldBVx x ∨ i = .storeRegs x) ∧
    (t.dt ≠ s.dt → ∃ x, i = .ldDtVx x) ∧ (t.st ≠ s.st → ∃ x, i = .ldStVx x)

/-! ## Control transfer -/

/-- RET (R100): with SP > 0, SP is one less and pc is the entry it now names, which is kept; with SP = 0, STACK_UNDERFLOW (the
spec's decision D3). -/
def Obligations.ReturnPopsTheStack : Prop :=
  decodeWord 0x00EE = some .ret ∧
  ∀ s : State,
    (0 < s.sp.val → ∃ t, exec .ret s = .next t ∧ t.sp.val = s.sp.val - 1 ∧
      (∀ k : Fin 16, k.val = s.sp.val - 1 → t.pc = s.stack[k]) ∧ UnchangedOutside (fun p => p = .pc ∨ p = .sp) s t) ∧
    (s.sp.val = 0 → ∃ t, exec .ret s = .next t ∧ FaultLatched 3 0x00EE s t)

/-- JP nnn (R101): pc is NNN; a target of 0xFFF makes the next fetch fail at 0x1000. -/
def Obligations.JumpSetsPc : Prop :=
  ∀ (s : State) (nnn : Addr12),
    decodeWord (u16 (0x1000 + nnn.toNat)) = some (.jp nnn) ∧
    ∃ t, exec (.jp nnn) s = .next t ∧ t.pc.toNat = nnn.toNat ∧ UnchangedOutside (fun p => p = .pc) s t ∧
      (nnn.toNat = 0xFFF → fetch t = .error 0x1000)

/-- CALL nnn (R102): with SP < 16 the return address pc + 2 is pushed (D4) and pc is NNN; with SP = 16, STACK_OVERFLOW with the
word (D3). -/
def Obligations.CallPushesTheReturnAddress : Prop :=
  ∀ (s : State) (nnn : Addr12),
    decodeWord (u16 (0x2000 + nnn.toNat)) = some (.call nnn) ∧
    (∀ k : Fin 16, k.val = s.sp.val → ∃ t, exec (.call nnn) s = .next t ∧ t.stack[k] = u16 (s.pc.toNat + 2) ∧
      t.sp.val = s.sp.val + 1 ∧ t.pc.toNat = nnn.toNat ∧
      UnchangedOutside (fun p => p = .pc ∨ p = .sp ∨ p = .stackEntry k) s t) ∧
    (s.sp.val = 16 → ∃ t, exec (.call nnn) s = .next t ∧ FaultLatched 2 (0x2000 + nnn.toNat) s t)

/-- JP V0, nnn (R103): pc is NNN + V0, kept whole; a target with target + 1 >= 0x1000 makes the next fetch fail. -/
def Obligations.JumpWithOffsetAddsV0 : Prop :=
  ∀ (s : State) (nnn : Addr12),
    decodeWord (u16 (0xB000 + nnn.toNat)) = some (.jpV0 nnn) ∧
    ∃ t, exec (.jpV0 nnn) s = .next t ∧ t.pc.toNat = nnn.toNat + (s.reg 0).toNat ∧ t.pc.toNat ≤ 0x10FE ∧
      UnchangedOutside (fun p => p = .pc) s t ∧
      (0xFFF ≤ nnn.toNat + (s.reg 0).toNat → fetch t = .error (max 0x1000 (nnn.toNat + (s.reg 0).toNat)))

/-! ## Skips -/

/-- SE Vx, nn and SNE Vx, nn (R120, R121, R122): pc + 4 when the condition holds, else pc + 2; nothing else changes. -/
def Obligations.SkipsOnImmediate : Prop :=
  ∀ (s : State) (x : Reg) (nn : Byte),
    decodeWord (u16 (0x3000 + 0x100 * x.val + nn.toNat)) = some (.seImm x nn) ∧
    decodeWord (u16 (0x4000 + 0x100 * x.val + nn.toNat)) = some (.sneImm x nn) ∧
    (∃ t, exec (.seImm x nn) s = .next t ∧ t.pc = u16 (s.pc.toNat + if s.reg x = nn then 4 else 2) ∧
      UnchangedOutside (fun p => p = .pc) s t) ∧
    ∃ t, exec (.sneImm x nn) s = .next t ∧ t.pc = u16 (s.pc.toNat + if s.reg x ≠ nn then 4 else 2) ∧
      UnchangedOutside (fun p => p = .pc) s t

/-- SE Vx, Vy and SNE Vx, Vy (R120, R123, R124); X = Y included. A word 5XYn or 9XYn with n != 0 is unrecognized (D7). -/
def Obligations.SkipsOnRegisters : Prop :=
  ∀ (s : State) (x y : Reg),
    decodeWord (u16 (0x5000 + 0x100 * x.val + 0x10 * y.val)) = some (.seReg x y) ∧
    decodeWord (u16 (0x9000 + 0x100 * x.val + 0x10 * y.val)) = some (.sneReg x y) ∧
    (∀ n, 0 < n → n < 16 → decodeWord (u16 (0x5000 + 0x100 * x.val + 0x10 * y.val + n)) = none ∧
      decodeWord (u16 (0x9000 + 0x100 * x.val + 0x10 * y.val + n)) = none) ∧
    (∃ t, exec (.seReg x y) s = .next t ∧ t.pc = u16 (s.pc.toNat + if s.reg x = s.reg y then 4 else 2) ∧
      UnchangedOutside (fun p => p = .pc) s t) ∧
    ∃ t, exec (.sneReg x y) s = .next t ∧ t.pc = u16 (s.pc.toNat + if s.reg x ≠ s.reg y then 4 else 2) ∧
      UnchangedOutside (fun p => p = .pc) s t

/-! ## Loads and ALU -/

/-- LD Vx, nn (R141). -/
def Obligations.LoadImmediateWritesVx : Prop :=
  ∀ (s : State) (x : Reg) (nn : Byte),
    decodeWord (u16 (0x6000 + 0x100 * x.val + nn.toNat)) = some (.ldImm x nn) ∧
    ∃ t, exec (.ldImm x nn) s = .next t ∧ t.reg x = nn ∧ t.pc = u16 (s.pc.toNat + 2) ∧
      UnchangedOutside (fun p => p = .reg x ∨ p = .pc) s t

/-- ADD Vx, nn (R142): the sum modulo 256, the carry discarded; VF is not written unless X = F. -/
def Obligations.AddImmediateWrapsWithoutFlag : Prop :=
  ∀ (s : State) (x : Reg) (nn : Byte),
    decodeWord (u16 (0x7000 + 0x100 * x.val + nn.toNat)) = some (.addImm x nn) ∧
    ∃ t, exec (.addImm x nn) s = .next t ∧ (t.reg x).toNat = ((s.reg x).toNat + nn.toNat) % 256 ∧
      t.pc = u16 (s.pc.toNat + 2) ∧ UnchangedOutside (fun p => p = .reg x ∨ p = .pc) s t

/-- LD Vx, Vy (R143). -/
def Obligations.AssignCopiesVy : Prop :=
  ∀ (s : State) (x y : Reg),
    decodeWord (u16 (0x8000 + 0x100 * x.val + 0x10 * y.val)) = some (.ldReg x y) ∧
    ∃ t, exec (.ldReg x y) s = .next t ∧ t.reg x = s.reg y ∧ t.pc = u16 (s.pc.toNat + 2) ∧
      UnchangedOutside (fun p => p = .reg x ∨ p = .pc) s t

/-- OR, AND, XOR (R144, R145, R146), bit by bit; VF is not reset. -/
def Obligations.BitwiseOperationsKeepVF : Prop :=
  ∀ (s : State) (x y : Reg),
    decodeWord (u16 (0x8001 + 0x100 * x.val + 0x10 * y.val)) = some (.orReg x y) ∧
    decodeWord (u16 (0x8002 + 0x100 * x.val + 0x10 * y.val)) = some (.andReg x y) ∧
    decodeWord (u16 (0x8003 + 0x100 * x.val + 0x10 * y.val)) = some (.xorReg x y) ∧
    (∃ t, exec (.orReg x y) s = .next t ∧
      (∀ k, k < 8 → (t.reg x).getLsbD k = ((s.reg x).getLsbD k || (s.reg y).getLsbD k)) ∧
      t.pc = u16 (s.pc.toNat + 2) ∧ UnchangedOutside (fun p => p = .reg x ∨ p = .pc) s t) ∧
    (∃ t, exec (.andReg x y) s = .next t ∧
      (∀ k, k < 8 → (t.reg x).getLsbD k = ((s.reg x).getLsbD k && (s.reg y).getLsbD k)) ∧
      t.pc = u16 (s.pc.toNat + 2) ∧ UnchangedOutside (fun p => p = .reg x ∨ p = .pc) s t) ∧
    (∃ t, exec (.xorReg x y) s = .next t ∧
      (∀ k, k < 8 → (t.reg x).getLsbD k = ((s.reg x).getLsbD k != (s.reg y).getLsbD k)) ∧
      t.pc = u16 (s.pc.toNat + 2) ∧ UnchangedOutside (fun p => p = .reg x ∨ p = .pc) s t)

/-- ADD Vx, Vy (R147): VF is 1 if a + b > 255, else 0, written last; VX is (a + b) mod 256 unless X = F. -/
def Obligations.AddSetsCarry : Prop :=
  ∀ (s : State) (x y : Reg),
    decodeWord (u16 (0x8004 + 0x100 * x.val + 0x10 * y.val)) = some (.addReg x y) ∧
    ∃ t, exec (.addReg x y) s = .next t ∧
      t.reg regF = (if 255 < (s.reg x).toNat + (s.reg y).toNat then 1 else 0) ∧
      (x ≠ regF → (t.reg x).toNat = ((s.reg x).toNat + (s.reg y).toNat) % 256) ∧
      t.pc = u16 (s.pc.toNat + 2) ∧ UnchangedOutside (fun p => p = .reg x ∨ p = .reg regF ∨ p = .pc) s t

/-- SUB Vx, Vy (R148): VF is 1 if a >= b (no borrow), else 0, written last; VX is (a - b) mod 256 unless X = F. -/
def Obligations.SubtractSetsNoBorrow : Prop :=
  ∀ (s : State) (x y : Reg),
    decodeWord (u16 (0x8005 + 0x100 * x.val + 0x10 * y.val)) = some (.subReg x y) ∧
    ∃ t, exec (.subReg x y) s = .next t ∧
      t.reg regF = (if (s.reg y).toNat ≤ (s.reg x).toNat then 1 else 0) ∧
      (x ≠ regF → (t.reg x).toNat = ((s.reg x).toNat + 256 - (s.reg y).toNat) % 256) ∧
      t.pc = u16 (s.pc.toNat + 2) ∧ UnchangedOutside (fun p => p = .reg x ∨ p = .reg regF ∨ p = .pc) s t

/-- SUBN Vx, Vy (R150): VF is 1 if VY >= VX, else 0, written last; VX is (VY - VX) mod 256 unless X = F. The spec takes this
meaning from general knowledge (D16, log 14). -/
def Obligations.ReverseSubtractSetsNoBorrow : Prop :=
  ∀ (s : State) (x y : Reg),
    decodeWord (u16 (0x8007 + 0x100 * x.val + 0x10 * y.val)) = some (.subnReg x y) ∧
    ∃ t, exec (.subnReg x y) s = .next t ∧
      t.reg regF = (if (s.reg x).toNat ≤ (s.reg y).toNat then 1 else 0) ∧
      (x ≠ regF → (t.reg x).toNat = ((s.reg y).toNat + 256 - (s.reg x).toNat) % 256) ∧
      t.pc = u16 (s.pc.toNat + 2) ∧ UnchangedOutside (fun p => p = .reg x ∨ p = .reg regF ∨ p = .pc) s t

/-- SHR Vx (R149): VF is the old bit 0 of VX, written last; VX is halved unless X = F; the result is the same for every Y. -/
def Obligations.ShiftRightIgnoresVy : Prop :=
  ∀ (s : State) (x y : Reg),
    decodeWord (u16 (0x8006 + 0x100 * x.val + 0x10 * y.val)) = some (.shr x y) ∧
    ∃ t, exec (.shr x y) s = .next t ∧ (t.reg regF).toNat = (s.reg x).toNat % 2 ∧
      (x ≠ regF → (t.reg x).toNat = (s.reg x).toNat / 2) ∧
      t.pc = u16 (s.pc.toNat + 2) ∧ UnchangedOutside (fun p => p = .reg x ∨ p = .reg regF ∨ p = .pc) s t ∧
      ∀ y', exec (.shr x y') s = .next t

/-- SHL Vx (R151): VF is the old bit 7 of VX, written last; VX is doubled modulo 256 unless X = F; the result is the same for
every Y. -/
def Obligations.ShiftLeftIgnoresVy : Prop :=
  ∀ (s : State) (x y : Reg),
    decodeWord (u16 (0x800E + 0x100 * x.val + 0x10 * y.val)) = some (.shl x y) ∧
    ∃ t, exec (.shl x y) s = .next t ∧ (t.reg regF).toNat = (s.reg x).toNat / 128 ∧
      (x ≠ regF → (t.reg x).toNat = 2 * (s.reg x).toNat % 256) ∧
      t.pc = u16 (s.pc.toNat + 2) ∧ UnchangedOutside (fun p => p = .reg x ∨ p = .reg regF ∨ p = .pc) s t ∧
      ∀ y', exec (.shl x y') s = .next t

/-- RND Vx, nn (R152), with every byte RAND supplied: a bit of VX is set only where it is set in nn and in RAND; so NN = 0x00
always gives 0x00 and NN = 0xFF gives RAND. In exec, which is supplied no byte, RAND is the free byte `Config.rand s.draws`, of
which nothing is known. The counter of RAND bytes is the model's own (log 1, 2). -/
def Obligations.RandomByteIsMasked : Prop :=
  ∀ (s : State) (x : Reg) (nn : Byte),
    decodeWord (u16 (0xC000 + 0x100 * x.val + nn.toNat)) = some (.rnd x nn) ∧
    (∃ t, exec (.rnd x nn) s = .next t ∧ RndResult (Config.rand s.draws) x nn s t) ∧
    ∀ rand : Byte, ∃ t, execute rand (.rnd x nn) s = .next t ∧ RndResult rand x nn s t

/-! ## Index and memory -/

/-- LD I, nnn (R170). -/
def Obligations.LoadIndexSetsI : Prop :=
  ∀ (s : State) (nnn : Addr12),
    decodeWord (u16 (0xA000 + nnn.toNat)) = some (.ldI nnn) ∧
    ∃ t, exec (.ldI nnn) s = .next t ∧ t.i.toNat = nnn.toNat ∧ t.pc = u16 (s.pc.toNat + 2) ∧
      UnchangedOutside (fun p => p = .index ∨ p = .pc) s t

/-- ADD I, Vx (R171): I is (I + VX) mod 65536, and VF, written last, is 1 if the new
I, the 16-bit result, exceeds 0xFFF, else 0 (the spec's decision D17). -/
def Obligations.AddToIndexSetsRangeFlag : Prop :=
  ∀ (s : State) (x : Reg),
    decodeWord (u16 (0xF01E + 0x100 * x.val)) = some (.addIVx x) ∧
    ∃ t, exec (.addIVx x) s = .next t ∧ t.i.toNat = (s.i.toNat + (s.reg x).toNat) % 65536 ∧
      t.reg regF = (if 0xFFF < t.i.toNat then 1 else 0) ∧ t.pc = u16 (s.pc.toNat + 2) ∧
      UnchangedOutside (fun p => p = .index ∨ p = .reg regF ∨ p = .pc) s t

/-- LD F, Vx (R172): I is 5 * VX, VX not masked. -/
def Obligations.FontIndexIsFiveTimesVx : Prop :=
  ∀ (s : State) (x : Reg),
    decodeWord (u16 (0xF029 + 0x100 * x.val)) = some (.ldFVx x) ∧
    ∃ t, exec (.ldFVx x) s = .next t ∧ t.i.toNat = 5 * (s.reg x).toNat ∧ t.pc = u16 (s.pc.toNat + 2) ∧
      UnchangedOutside (fun p => p = .index ∨ p = .pc) s t

/-- LD B, Vx (R173): hundreds, tens and units of VX at I, I + 1, I + 2, I kept, when I + 2 < 4096; else MEMORY_OUT_OF_RANGE with
the lowest bad address and nothing written. Memory in canonical form (an invariant, StepKeepsTheInvariant) is a premise. -/
def Obligations.StoreDecimalDigits : Prop :=
  ∀ (s : State) (x : Reg),
    decodeWord (u16 (0xF033 + 0x100 * x.val)) = some (.ldBVx x) ∧
    (s.mem.wf → s.i.toNat + 2 < 4096 → ∃ t, exec (.ldBVx x) s = .next t ∧
      (t.readMem s.i.toNat).toNat = (s.reg x).toNat / 100 ∧
      (t.readMem (s.i.toNat + 1)).toNat = (s.reg x).toNat / 10 % 10 ∧
      (t.readMem (s.i.toNat + 2)).toNat = (s.reg x).toNat % 10 ∧ t.pc = u16 (s.pc.toNat + 2) ∧
      UnchangedOutside (fun p => p = .pc ∨ ∃ a, p = .memByte a ∧ s.i.toNat ≤ a ∧ a ≤ s.i.toNat + 2) s t) ∧
    (4096 ≤ s.i.toNat + 2 → ∃ t, exec (.ldBVx x) s = .next t ∧ FaultLatched 4 (max s.i.toNat 4096) s t)

/-- LD [I], Vx (R174): V0 to VX at I to I + X, I one past the last, when I + X < 4096; else MEMORY_OUT_OF_RANGE and nothing
written. Memory in canonical form is a premise. -/
def Obligations.StoreRegistersAtIndex : Prop :=
  ∀ (s : State) (x : Reg),
    decodeWord (u16 (0xF055 + 0x100 * x.val)) = some (.storeRegs x) ∧
    (s.mem.wf → s.i.toNat + x.val < 4096 → ∃ t, exec (.storeRegs x) s = .next t ∧
      (∀ r : Reg, r.val ≤ x.val → t.readMem (s.i.toNat + r.val) = s.reg r) ∧
      t.i.toNat = s.i.toNat + x.val + 1 ∧ t.pc = u16 (s.pc.toNat + 2) ∧
      UnchangedOutside
        (fun p => p = .pc ∨ p = .index ∨ ∃ a, p = .memByte a ∧ s.i.toNat ≤ a ∧ a ≤ s.i.toNat + x.val) s t) ∧
    (4096 ≤ s.i.toNat + x.val → ∃ t, exec (.storeRegs x) s = .next t ∧ FaultLatched 4 (max s.i.toNat 4096) s t)

/-- LD Vx, [I] (R175): V0 to VX from I to I + X, I one past the last, when I + X < 4096; else MEMORY_OUT_OF_RANGE and no register
written. -/
def Obligations.LoadRegistersFromIndex : Prop :=
  ∀ (s : State) (x : Reg),
    decodeWord (u16 (0xF065 + 0x100 * x.val)) = some (.loadRegs x) ∧
    (s.i.toNat + x.val < 4096 → ∃ t, exec (.loadRegs x) s = .next t ∧
      (∀ r : Reg, r.val ≤ x.val → t.reg r = s.readMem (s.i.toNat + r.val)) ∧
      t.i.toNat = s.i.toNat + x.val + 1 ∧ t.pc = u16 (s.pc.toNat + 2) ∧
      UnchangedOutside (fun p => p = .pc ∨ p = .index ∨ ∃ r : Reg, p = .reg r ∧ r.val ≤ x.val) s t) ∧
    (4096 ≤ s.i.toNat + x.val → ∃ t, exec (.loadRegs x) s = .next t ∧ FaultLatched 4 (max s.i.toNat 4096) s t)

/-- FX55 then FX65 with the same X and I round-trips V0 to VX (R175, E5): whatever the registers hold when FX65 starts, it brings
back what FX55 stored. -/
def Obligations.StoreThenLoadRoundTrips : Prop :=
  ∀ (s t s' u : State) (x : Reg), s.mem.wf → s.i.toNat + x.val < 4096 → exec (.storeRegs x) s = .next t →
    s'.mem = t.mem → s'.i = s.i → exec (.loadRegs x) s' = .next u → ∀ r : Reg, r.val ≤ x.val → u.reg r = s.reg r

/-- A store is seen by the very next fetch (R50, R278): FX55 with I at pc + 2 and X >= 1 puts V0 V1 there as the next word. -/
def Obligations.StoreIsSeenByTheNextFetch : Prop :=
  ∀ (s t : State) (x : Reg), s.mem.wf → s.i.toNat = s.pc.toNat + 2 → 1 ≤ x.val → s.i.toNat + x.val < 4096 →
    exec (.storeRegs x) s = .next t → fetch t = .ok (u16 (256 * (s.reg 0).toNat + (s.reg 1).toNat))

/-! ## Display -/

/-- CLS (R191): every cell 0, DIRTY 1, pc + 2, nothing else. -/
def Obligations.ClearScreenZeroesEveryCell : Prop :=
  decodeWord 0x00E0 = some .cls ∧
  ∀ s : State, ∃ t, exec .cls s = .next t ∧ (∀ idx, idx < 2048 → t.cell idx = false) ∧ t.dirty = true ∧
    t.pc = u16 (s.pc.toNat + 2) ∧ UnchangedOutside (fun p => p = .pc ∨ p = .dirty ∨ ∃ idx, p = .pixel idx) s t

/-- DRW Vx, Vy, n (R190, R192). With the sprite in memory and no set bit off the grid: the cells under set bits flip, every other
cell is kept, DIRTY is 1, VF (written last) is 1 exactly if a set cell was flipped, pc + 2. With a row at 4096 or more:
MEMORY_OUT_OF_RANGE. Else, with a set bit off the grid: DRAW_OUT_OF_RANGE with the first such bit in row-then-column order. The
bit order within a row is the spec's from general knowledge (D15, log 15). -/
def Obligations.DrawXorsTheSprite : Prop :=
  ∀ (s : State) (x y : Reg) (n : Nibble),
    decodeWord (u16 (0xD000 + 0x100 * x.val + 0x10 * y.val + n.toNat)) = some (.drw x y n) ∧
    ((n.toNat = 0 ∨ s.i.toNat + n.toNat ≤ 4096) → (∀ r c, ¬ bitOffGrid s x y n r c) →
      ∃ t, exec (.drw x y n) s = .next t ∧
        (∀ px py, px < 64 → py < 32 → covers s x y n px py → t.cell (px + 64 * py) = !s.cell (px + 64 * py)) ∧
        (∀ px py, px < 64 → py < 32 → ¬ covers s x y n px py → t.cell (px + 64 * py) = s.cell (px + 64 * py)) ∧
        ((∃ px py, covers s x y n px py ∧ s.cell (px + 64 * py) = true) → t.reg regF = 1) ∧
        ((∀ px py, covers s x y n px py → s.cell (px + 64 * py) = false) → t.reg regF = 0) ∧
        t.dirty = true ∧ t.pc = u16 (s.pc.toNat + 2) ∧
        UnchangedOutside (fun p => p = .pc ∨ p = .dirty ∨ p = .reg regF ∨ ∃ idx, p = .pixel idx) s t) ∧
    (1 ≤ n.toNat → 4096 < s.i.toNat + n.toNat →
      ∃ t, exec (.drw x y n) s = .next t ∧ FaultLatched 4 (max s.i.toNat 4096) s t) ∧
    ((n.toNat = 0 ∨ s.i.toNat + n.toNat ≤ 4096) → ∀ r c, bitOffGrid s x y n r c →
      (∀ r' c', r' < r ∨ (r' = r ∧ c' < c) → ¬ bitOffGrid s x y n r' c') →
      ∃ t, exec (.drw x y n) s = .next t ∧
        FaultLatched 6 (((s.reg x).toNat + c) * 65536 + ((s.reg y).toNat + r)) s t)

/-- Drawing the same sprite twice at the same place restores the framebuffer, and the second draw reports a collision when the
sprite has a set bit and all of its cells were clear at first (E4, C7). X and Y are not F: with X = F or Y = F the first draw's
flag overwrites a coordinate, so the second draw may be at another place. The collision clauses name the cells by the bit order within a
row, which is the spec's from general knowledge (D15, log 15). -/
def Obligations.DrawTwiceRestoresTheScreen : Prop :=
  ∀ (s t u : State) (x y : Reg) (n : Nibble), x ≠ regF → y ≠ regF → s.running →
    exec (.drw x y n) s = .next t → t.running → exec (.drw x y n) t = .next u →
    u.running ∧ u.fb = s.fb ∧
    ((∀ px py, covers s x y n px py → s.cell (px + 64 * py) = false) → t.reg regF = 0 ∧
      ((∃ r c, spriteBit s n r c) → u.reg regF = 1) ∧ ((∀ r c, ¬ spriteBit s n r c) → u.reg regF = 0))

/-! ## Keypad and timers -/

/-- SKP Vx and SKNP Vx (R120, R210, R211, R237): with VX a key index, skip if the key is down (is up); with VX > 0xF,
KEY_INDEX_OUT_OF_RANGE with VX. -/
def Obligations.SkipsOnKey : Prop :=
  ∀ (s : State) (x : Reg),
    decodeWord (u16 (0xE09E + 0x100 * x.val)) = some (.skp x) ∧ decodeWord (u16 (0xE0A1 + 0x100 * x.val)) = some (.sknp x) ∧
    (∀ k : Fin 16, k.val = (s.reg x).toNat →
      (∃ t, exec (.skp x) s = .next t ∧ t.pc = u16 (s.pc.toNat + if s.keyDown k = true then 4 else 2) ∧
        UnchangedOutside (fun p => p = .pc) s t) ∧
      ∃ t, exec (.sknp x) s = .next t ∧ t.pc = u16 (s.pc.toNat + if s.keyDown k = false then 4 else 2) ∧
        UnchangedOutside (fun p => p = .pc) s t) ∧
    (0xF < (s.reg x).toNat →
      (∃ t, exec (.skp x) s = .next t ∧ FaultLatched 5 (s.reg x).toNat s t) ∧
      ∃ t, exec (.sknp x) s = .next t ∧ FaultLatched 5 (s.reg x).toNat s t)

/-- LD Vx, DT (R212): VX is DT before the step's decay. -/
def Obligations.ReadDelayTimer : Prop :=
  ∀ (s : State) (x : Reg),
    decodeWord (u16 (0xF007 + 0x100 * x.val)) = some (.ldVxDt x) ∧
    ∃ t, exec (.ldVxDt x) s = .next t ∧ t.reg x = s.dt ∧ t.pc = u16 (s.pc.toNat + 2) ∧
      UnchangedOutside (fun p => p = .reg x ∨ p = .pc) s t

/-- LD Vx, K (R213): with no key down nothing changes (the step blocks, OnlyWaitForKeyBlocks); else VX is the lowest key down. -/
def Obligations.WaitForKeyTakesTheLowest : Prop :=
  ∀ (s : State) (x : Reg),
    decodeWord (u16 (0xF00A + 0x100 * x.val)) = some (.ldVxK x) ∧
    ((∀ k, s.keyDown k = false) → exec (.ldVxK x) s = .next s ∧ blocks (.ldVxK x) s = true) ∧
    (∀ k : Fin 16, s.keyDown k = true → (∀ j, j < k → s.keyDown j = false) →
      ∃ t, exec (.ldVxK x) s = .next t ∧ (t.reg x).toNat = k.val ∧ t.pc = u16 (s.pc.toNat + 2) ∧
        UnchangedOutside (fun p => p = .reg x ∨ p = .pc) s t ∧ blocks (.ldVxK x) s = false)

/-- LD DT, Vx and LD ST, Vx (R214, R215): the timer is VX; the decay of the same step comes after (TimerSetIsReadOneLess). -/
def Obligations.SetTimersFromVx : Prop :=
  ∀ (s : State) (x : Reg),
    decodeWord (u16 (0xF015 + 0x100 * x.val)) = some (.ldDtVx x) ∧ decodeWord (u16 (0xF018 + 0x100 * x.val)) = some (.ldStVx x) ∧
    (∃ t, exec (.ldDtVx x) s = .next t ∧ t.dt = s.reg x ∧ t.pc = u16 (s.pc.toNat + 2) ∧
      UnchangedOutside (fun p => p = .dt ∨ p = .pc) s t) ∧
    ∃ t, exec (.ldStVx x) s = .next t ∧ t.st = s.reg x ∧ t.pc = u16 (s.pc.toNat + 2) ∧
      UnchangedOutside (fun p => p = .st ∨ p = .pc) s t

/-- Timer-set visibility (R277, which the spec derives from R85): in PER_INSTRUCTION mode a step of FX15 or FX18 leaves VX - 1
(0 when VX = 0) in the timer, and an FX07 in the step right after an FX15 reads that. -/
def Obligations.TimerSetIsReadOneLess : Prop :=
  ∀ (rand rand' : Byte) (s t u : State) (x y : Reg),
    (decodeWord s.wordAtPc = some (.ldStVx x) → cycle .perInstruction rand s = .next (t, .completed) →
      t.st.toNat = (s.reg x).toNat - 1) ∧
    (decodeWord s.wordAtPc = some (.ldDtVx x) → cycle .perInstruction rand s = .next (t, .completed) →
      t.dt.toNat = (s.reg x).toNat - 1 ∧
      (decodeWord t.wordAtPc = some (.ldVxDt y) → cycle .perInstruction rand' t = .next (u, .completed) →
        (u.reg y).toNat = (s.reg x).toNat - 1))

/-! ## Host interface -/

/-- INIT (R26, R270): from any state, in either mode, every piece of state is at its reset value, and State.reset is such a state;
FONT has 80 bytes. The font's bytes are a parameter (R31) and are not said. -/
def Obligations.InitLeavesResetValues : Prop :=
  State.reset.atReset ∧ font.length = 80 ∧
  ∀ (mode : Config.TimerMode) (s : State), ∃ t, hostOp mode .init s = .next (t, .nothing) ∧ t.atReset

/-- LOAD (R272, R273): at most 3584 bytes are copied to 0x200 up and nothing else changes; more copy nothing, return
CAPACITY_EXCEEDED and halt the core with code 7 and FAULT_INFO L (its low 32 bits, log 9), and whatever the host does but INIT,
every later STEP returns FAULT(7) and changes nothing. Memory in canonical form is a premise of the copy. -/
def Obligations.LoadCopiesTheProgram : Prop :=
  ∀ (mode : Config.TimerMode) (s : State) (bytes : List Byte),
    (s.mem.wf → bytes.length ≤ 3584 → ∃ t, hostOp mode (.load bytes) s = .next (t, .ok) ∧
      (∀ k, k < bytes.length → t.readMem (0x200 + k) = bytes.getD k 0) ∧
      UnchangedOutside (fun p => ∃ k, p = .memByte (0x200 + k) ∧ k < bytes.length) s t) ∧
    (3584 < bytes.length → ∃ t, hostOp mode (.load bytes) s = .next (t, .capacityExceeded) ∧
      FaultLatched 7 bytes.length s t ∧
      ∀ (ops : List HostOp) (u : State), .init ∉ ops → hostRun mode ops t = some u →
        ∀ rand, hostOp mode (.step rand) u = .next (u, .stepped (.fault 7)))

/-- TICK (R246): in EXTERNAL_TICK mode a running core's timers each count one toward zero and nothing else changes, and a halted
core does not change; in PER_INSTRUCTION mode TICK is not available (R250). -/
def Obligations.TickDecaysTheTimers : Prop :=
  ∀ s : State,
    (∃ t, hostOp .externalTick .tick s = .next (t, .nothing) ∧ (s.halted = true → t = s) ∧
      (s.running → t.dt.toNat = s.dt.toNat - 1 ∧ t.st.toNat = s.st.toNat - 1 ∧
        UnchangedOutside (fun p => p = .dt ∨ p = .st) s t)) ∧
    hostOp .perInstruction .tick s = .refused .tickNotAvailable

/-- SET_KEYS, PRESENT and READ_STATUS (R248, R249, R250): every key is set as given; DIRTY is cleared and FB returned; the status
is returned; nothing else changes. -/
def Obligations.KeysPresentAndStatus : Prop :=
  ∀ (mode : Config.TimerMode) (s : State) (keys : Vector Bool 16),
    (∃ t, hostOp mode (.setKeys keys) s = .next (t, .nothing) ∧ (∀ k : Fin 16, t.keyDown k = keys[k]) ∧
      UnchangedOutside (fun p => ∃ k, p = .key k) s t) ∧
    (∃ t, hostOp mode .present s = .next (t, .cells s.fb) ∧ t.dirty = false ∧ UnchangedOutside (fun p => p = .dirty) s t) ∧
    hostOp mode .readStatus s = .next (s, .status s.dirty s.st s.halted s.faultCode s.faultInfo)

/-! ## The random byte -/

/-- RAND (R247): a step that executes CXNN, in either timer mode, completes with VX the supplied byte masked by nn, whatever the
byte; a step that executes no CXNN is the same for every byte. The host's STEP supplies the byte (R250). -/
def Obligations.RandIsTheByteOfTheStep : Prop :=
  ∀ (mode : Config.TimerMode) (s : State),
    (∀ x nn, s.running → s.fetchable → decodeWord s.wordAtPc = some (.rnd x nn) →
      ∀ rand : Byte, ∃ t, cycle mode rand s = .next (t, .completed) ∧
        hostOp mode (.step rand) s = .next (t, .stepped .completed) ∧
        ∀ k, k < 8 → (t.reg x).getLsbD k = (rand.getLsbD k && nn.getLsbD k)) ∧
    (¬ (s.running ∧ s.fetchable ∧ ∃ x nn, decodeWord s.wordAtPc = some (.rnd x nn)) →
      ∀ rand rand' : Byte, cycle mode rand s = cycle mode rand' s ∧ hostOp mode (.step rand) s = hostOp mode (.step rand') s)
end

