-- ==== Sys2Proof/Laws/State.lean ====
section
/-! SUPPORT. One lemma per field per update of the state, and per derived read (reg, readMem, cell, keyDown), each true by rfl and
in the simp set, so that no proof unfolds a record update. -/

namespace Sys2Proof.Machine

/-! ## Derived updates in terms of the plain ones -/

@[simp] theorem State.setFlag_eq (s : State) (c : Bool) : s.setFlag c = s.setReg regF (flagByte c) := rfl
@[simp] theorem State.advance_eq (s : State) : s.advance = s.setPc (s.pc + 2) := rfl
@[simp] theorem State.skipIf_eq (s : State) (c : Bool) : s.skipIf c = s.setPc (if c then s.pc + 4 else s.pc + 2) := rfl
@[simp] theorem State.init_eq (s : State) : s.init = { State.reset with draws := s.draws } := rfl
@[simp] theorem done_eq (s : State) : done s = .next s := rfl
@[simp] theorem fail_eq (s : State) (k : FaultKind) (n : Nat) : fail s k n = .next (s.raise k n) := rfl

/-! ## setReg -/

@[simp] theorem State.setReg_v (s : State) (r : Reg) (b : Byte) : (s.setReg r b).v = s.v.set r b := rfl
@[simp] theorem State.setReg_pc (s : State) (r : Reg) (b : Byte) : (s.setReg r b).pc = s.pc := rfl
@[simp] theorem State.setReg_i (s : State) (r : Reg) (b : Byte) : (s.setReg r b).i = s.i := rfl
@[simp] theorem State.setReg_sp (s : State) (r : Reg) (b : Byte) : (s.setReg r b).sp = s.sp := rfl
@[simp] theorem State.setReg_stack (s : State) (r : Reg) (b : Byte) : (s.setReg r b).stack = s.stack := rfl
@[simp] theorem State.setReg_dt (s : State) (r : Reg) (b : Byte) : (s.setReg r b).dt = s.dt := rfl
@[simp] theorem State.setReg_st (s : State) (r : Reg) (b : Byte) : (s.setReg r b).st = s.st := rfl
@[simp] theorem State.setReg_mem (s : State) (r : Reg) (b : Byte) : (s.setReg r b).mem = s.mem := rfl
@[simp] theorem State.setReg_fb (s : State) (r : Reg) (b : Byte) : (s.setReg r b).fb = s.fb := rfl
@[simp] theorem State.setReg_dirty (s : State) (r : Reg) (b : Byte) : (s.setReg r b).dirty = s.dirty := rfl
@[simp] theorem State.setReg_key (s : State) (r : Reg) (b : Byte) : (s.setReg r b).key = s.key := rfl
@[simp] theorem State.setReg_halted (s : State) (r : Reg) (b : Byte) : (s.setReg r b).halted = s.halted := rfl
@[simp] theorem State.setReg_faultCode (s : State) (r : Reg) (b : Byte) : (s.setReg r b).faultCode = s.faultCode := rfl
@[simp] theorem State.setReg_faultInfo (s : State) (r : Reg) (b : Byte) : (s.setReg r b).faultInfo = s.faultInfo := rfl
@[simp] theorem State.setReg_draws (s : State) (r : Reg) (b : Byte) : (s.setReg r b).draws = s.draws := rfl
@[simp] theorem State.setReg_readMem (s : State) (r : Reg) (b : Byte) (q : Nat) : (s.setReg r b).readMem q = s.readMem q := rfl
@[simp] theorem State.setReg_cell (s : State) (r : Reg) (b : Byte) (q : Nat) : (s.setReg r b).cell q = s.cell q := rfl
@[simp] theorem State.setReg_keyDown (s : State) (r : Reg) (b : Byte) (q : Fin 16) : (s.setReg r b).keyDown q = s.keyDown q := rfl

/-! ## setPc -/

@[simp] theorem State.setPc_v (s : State) (w : Word) : (s.setPc w).v = s.v := rfl
@[simp] theorem State.setPc_pc (s : State) (w : Word) : (s.setPc w).pc = w := rfl
@[simp] theorem State.setPc_i (s : State) (w : Word) : (s.setPc w).i = s.i := rfl
@[simp] theorem State.setPc_sp (s : State) (w : Word) : (s.setPc w).sp = s.sp := rfl
@[simp] theorem State.setPc_stack (s : State) (w : Word) : (s.setPc w).stack = s.stack := rfl
@[simp] theorem State.setPc_dt (s : State) (w : Word) : (s.setPc w).dt = s.dt := rfl
@[simp] theorem State.setPc_st (s : State) (w : Word) : (s.setPc w).st = s.st := rfl
@[simp] theorem State.setPc_mem (s : State) (w : Word) : (s.setPc w).mem = s.mem := rfl
@[simp] theorem State.setPc_fb (s : State) (w : Word) : (s.setPc w).fb = s.fb := rfl
@[simp] theorem State.setPc_dirty (s : State) (w : Word) : (s.setPc w).dirty = s.dirty := rfl
@[simp] theorem State.setPc_key (s : State) (w : Word) : (s.setPc w).key = s.key := rfl
@[simp] theorem State.setPc_halted (s : State) (w : Word) : (s.setPc w).halted = s.halted := rfl
@[simp] theorem State.setPc_faultCode (s : State) (w : Word) : (s.setPc w).faultCode = s.faultCode := rfl
@[simp] theorem State.setPc_faultInfo (s : State) (w : Word) : (s.setPc w).faultInfo = s.faultInfo := rfl
@[simp] theorem State.setPc_draws (s : State) (w : Word) : (s.setPc w).draws = s.draws := rfl
@[simp] theorem State.setPc_reg (s : State) (w : Word) (q : Reg) : (s.setPc w).reg q = s.reg q := rfl
@[simp] theorem State.setPc_readMem (s : State) (w : Word) (q : Nat) : (s.setPc w).readMem q = s.readMem q := rfl
@[simp] theorem State.setPc_cell (s : State) (w : Word) (q : Nat) : (s.setPc w).cell q = s.cell q := rfl
@[simp] theorem State.setPc_keyDown (s : State) (w : Word) (q : Fin 16) : (s.setPc w).keyDown q = s.keyDown q := rfl

/-! ## setI -/

@[simp] theorem State.setI_v (s : State) (w : Word) : (s.setI w).v = s.v := rfl
@[simp] theorem State.setI_pc (s : State) (w : Word) : (s.setI w).pc = s.pc := rfl
@[simp] theorem State.setI_i (s : State) (w : Word) : (s.setI w).i = w := rfl
@[simp] theorem State.setI_sp (s : State) (w : Word) : (s.setI w).sp = s.sp := rfl
@[simp] theorem State.setI_stack (s : State) (w : Word) : (s.setI w).stack = s.stack := rfl
@[simp] theorem State.setI_dt (s : State) (w : Word) : (s.setI w).dt = s.dt := rfl
@[simp] theorem State.setI_st (s : State) (w : Word) : (s.setI w).st = s.st := rfl
@[simp] theorem State.setI_mem (s : State) (w : Word) : (s.setI w).mem = s.mem := rfl
@[simp] theorem State.setI_fb (s : State) (w : Word) : (s.setI w).fb = s.fb := rfl
@[simp] theorem State.setI_dirty (s : State) (w : Word) : (s.setI w).dirty = s.dirty := rfl
@[simp] theorem State.setI_key (s : State) (w : Word) : (s.setI w).key = s.key := rfl
@[simp] theorem State.setI_halted (s : State) (w : Word) : (s.setI w).halted = s.halted := rfl
@[simp] theorem State.setI_faultCode (s : State) (w : Word) : (s.setI w).faultCode = s.faultCode := rfl
@[simp] theorem State.setI_faultInfo (s : State) (w : Word) : (s.setI w).faultInfo = s.faultInfo := rfl
@[simp] theorem State.setI_draws (s : State) (w : Word) : (s.setI w).draws = s.draws := rfl
@[simp] theorem State.setI_reg (s : State) (w : Word) (q : Reg) : (s.setI w).reg q = s.reg q := rfl
@[simp] theorem State.setI_readMem (s : State) (w : Word) (q : Nat) : (s.setI w).readMem q = s.readMem q := rfl
@[simp] theorem State.setI_cell (s : State) (w : Word) (q : Nat) : (s.setI w).cell q = s.cell q := rfl
@[simp] theorem State.setI_keyDown (s : State) (w : Word) (q : Fin 16) : (s.setI w).keyDown q = s.keyDown q := rfl

/-! ## writeMem -/

@[simp] theorem State.writeMem_v (s : State) (a : Nat) (b : Byte) : (s.writeMem a b).v = s.v := rfl
@[simp] theorem State.writeMem_pc (s : State) (a : Nat) (b : Byte) : (s.writeMem a b).pc = s.pc := rfl
@[simp] theorem State.writeMem_i (s : State) (a : Nat) (b : Byte) : (s.writeMem a b).i = s.i := rfl
@[simp] theorem State.writeMem_sp (s : State) (a : Nat) (b : Byte) : (s.writeMem a b).sp = s.sp := rfl
@[simp] theorem State.writeMem_stack (s : State) (a : Nat) (b : Byte) : (s.writeMem a b).stack = s.stack := rfl
@[simp] theorem State.writeMem_dt (s : State) (a : Nat) (b : Byte) : (s.writeMem a b).dt = s.dt := rfl
@[simp] theorem State.writeMem_st (s : State) (a : Nat) (b : Byte) : (s.writeMem a b).st = s.st := rfl
@[simp] theorem State.writeMem_mem (s : State) (a : Nat) (b : Byte) : (s.writeMem a b).mem = s.mem.write a b := rfl
@[simp] theorem State.writeMem_fb (s : State) (a : Nat) (b : Byte) : (s.writeMem a b).fb = s.fb := rfl
@[simp] theorem State.writeMem_dirty (s : State) (a : Nat) (b : Byte) : (s.writeMem a b).dirty = s.dirty := rfl
@[simp] theorem State.writeMem_key (s : State) (a : Nat) (b : Byte) : (s.writeMem a b).key = s.key := rfl
@[simp] theorem State.writeMem_halted (s : State) (a : Nat) (b : Byte) : (s.writeMem a b).halted = s.halted := rfl
@[simp] theorem State.writeMem_faultCode (s : State) (a : Nat) (b : Byte) : (s.writeMem a b).faultCode = s.faultCode := rfl
@[simp] theorem State.writeMem_faultInfo (s : State) (a : Nat) (b : Byte) : (s.writeMem a b).faultInfo = s.faultInfo := rfl
@[simp] theorem State.writeMem_draws (s : State) (a : Nat) (b : Byte) : (s.writeMem a b).draws = s.draws := rfl
@[simp] theorem State.writeMem_reg (s : State) (a : Nat) (b : Byte) (q : Reg) : (s.writeMem a b).reg q = s.reg q := rfl
@[simp] theorem State.writeMem_cell (s : State) (a : Nat) (b : Byte) (q : Nat) : (s.writeMem a b).cell q = s.cell q := rfl
@[simp] theorem State.writeMem_keyDown (s : State) (a : Nat) (b : Byte) (q : Fin 16) : (s.writeMem a b).keyDown q = s.keyDown q := rfl

/-! ## push -/

@[simp] theorem State.push_v (s : State) (w : Word) (h : s.sp.val < 16) : (s.push w h).v = s.v := rfl
@[simp] theorem State.push_pc (s : State) (w : Word) (h : s.sp.val < 16) : (s.push w h).pc = s.pc := rfl
@[simp] theorem State.push_i (s : State) (w : Word) (h : s.sp.val < 16) : (s.push w h).i = s.i := rfl
@[simp] theorem State.push_sp (s : State) (w : Word) (h : s.sp.val < 16) : (s.push w h).sp = ⟨s.sp.val + 1, by omega⟩ := rfl
@[simp] theorem State.push_stack (s : State) (w : Word) (h : s.sp.val < 16) : (s.push w h).stack = s.stack.set s.sp.val w := rfl
@[simp] theorem State.push_dt (s : State) (w : Word) (h : s.sp.val < 16) : (s.push w h).dt = s.dt := rfl
@[simp] theorem State.push_st (s : State) (w : Word) (h : s.sp.val < 16) : (s.push w h).st = s.st := rfl
@[simp] theorem State.push_mem (s : State) (w : Word) (h : s.sp.val < 16) : (s.push w h).mem = s.mem := rfl
@[simp] theorem State.push_fb (s : State) (w : Word) (h : s.sp.val < 16) : (s.push w h).fb = s.fb := rfl
@[simp] theorem State.push_dirty (s : State) (w : Word) (h : s.sp.val < 16) : (s.push w h).dirty = s.dirty := rfl
@[simp] theorem State.push_key (s : State) (w : Word) (h : s.sp.val < 16) : (s.push w h).key = s.key := rfl
@[simp] theorem State.push_halted (s : State) (w : Word) (h : s.sp.val < 16) : (s.push w h).halted = s.halted := rfl
@[simp] theorem State.push_faultCode (s : State) (w : Word) (h : s.sp.val < 16) : (s.push w h).faultCode = s.faultCode := rfl
@[simp] theorem State.push_faultInfo (s : State) (w : Word) (h : s.sp.val < 16) : (s.push w h).faultInfo = s.faultInfo := rfl
@[simp] theorem State.push_draws (s : State) (w : Word) (h : s.sp.val < 16) : (s.push w h).draws = s.draws := rfl
@[simp] theorem State.push_reg (s : State) (w : Word) (h : s.sp.val < 16) (q : Reg) : (s.push w h).reg q = s.reg q := rfl
@[simp] theorem State.push_readMem (s : State) (w : Word) (h : s.sp.val < 16) (q : Nat) : (s.push w h).readMem q = s.readMem q := rfl
@[simp] theorem State.push_cell (s : State) (w : Word) (h : s.sp.val < 16) (q : Nat) : (s.push w h).cell q = s.cell q := rfl
@[simp] theorem State.push_keyDown (s : State) (w : Word) (h : s.sp.val < 16) (q : Fin 16) : (s.push w h).keyDown q = s.keyDown q := rfl

/-! ## pop -/

@[simp] theorem State.pop_v (s : State) : (s.pop).v = s.v := rfl
@[simp] theorem State.pop_pc (s : State) : (s.pop).pc = s.pc := rfl
@[simp] theorem State.pop_i (s : State) : (s.pop).i = s.i := rfl
@[simp] theorem State.pop_sp (s : State) : (s.pop).sp = ⟨s.sp.val - 1, by omega⟩ := rfl
@[simp] theorem State.pop_stack (s : State) : (s.pop).stack = s.stack := rfl
@[simp] theorem State.pop_dt (s : State) : (s.pop).dt = s.dt := rfl
@[simp] theorem State.pop_st (s : State) : (s.pop).st = s.st := rfl
@[simp] theorem State.pop_mem (s : State) : (s.pop).mem = s.mem := rfl
@[simp] theorem State.pop_fb (s : State) : (s.pop).fb = s.fb := rfl
@[simp] theorem State.pop_dirty (s : State) : (s.pop).dirty = s.dirty := rfl
@[simp] theorem State.pop_key (s : State) : (s.pop).key = s.key := rfl
@[simp] theorem State.pop_halted (s : State) : (s.pop).halted = s.halted := rfl
@[simp] theorem State.pop_faultCode (s : State) : (s.pop).faultCode = s.faultCode := rfl
@[simp] theorem State.pop_faultInfo (s : State) : (s.pop).faultInfo = s.faultInfo := rfl
@[simp] theorem State.pop_draws (s : State) : (s.pop).draws = s.draws := rfl
@[simp] theorem State.pop_reg (s : State) (q : Reg) : (s.pop).reg q = s.reg q := rfl
@[simp] theorem State.pop_readMem (s : State) (q : Nat) : (s.pop).readMem q = s.readMem q := rfl
@[simp] theorem State.pop_cell (s : State) (q : Nat) : (s.pop).cell q = s.cell q := rfl
@[simp] theorem State.pop_keyDown (s : State) (q : Fin 16) : (s.pop).keyDown q = s.keyDown q := rfl

/-! ## setFb -/

@[simp] theorem State.setFb_v (s : State) (fb : Framebuffer) : (s.setFb fb).v = s.v := rfl
@[simp] theorem State.setFb_pc (s : State) (fb : Framebuffer) : (s.setFb fb).pc = s.pc := rfl
@[simp] theorem State.setFb_i (s : State) (fb : Framebuffer) : (s.setFb fb).i = s.i := rfl
@[simp] theorem State.setFb_sp (s : State) (fb : Framebuffer) : (s.setFb fb).sp = s.sp := rfl
@[simp] theorem State.setFb_stack (s : State) (fb : Framebuffer) : (s.setFb fb).stack = s.stack := rfl
@[simp] theorem State.setFb_dt (s : State) (fb : Framebuffer) : (s.setFb fb).dt = s.dt := rfl
@[simp] theorem State.setFb_st (s : State) (fb : Framebuffer) : (s.setFb fb).st = s.st := rfl
@[simp] theorem State.setFb_mem (s : State) (fb : Framebuffer) : (s.setFb fb).mem = s.mem := rfl
@[simp] theorem State.setFb_fb (s : State) (fb : Framebuffer) : (s.setFb fb).fb = fb := rfl
@[simp] theorem State.setFb_dirty (s : State) (fb : Framebuffer) : (s.setFb fb).dirty = true := rfl
@[simp] theorem State.setFb_key (s : State) (fb : Framebuffer) : (s.setFb fb).key = s.key := rfl
@[simp] theorem State.setFb_halted (s : State) (fb : Framebuffer) : (s.setFb fb).halted = s.halted := rfl
@[simp] theorem State.setFb_faultCode (s : State) (fb : Framebuffer) : (s.setFb fb).faultCode = s.faultCode := rfl
@[simp] theorem State.setFb_faultInfo (s : State) (fb : Framebuffer) : (s.setFb fb).faultInfo = s.faultInfo := rfl
@[simp] theorem State.setFb_draws (s : State) (fb : Framebuffer) : (s.setFb fb).draws = s.draws := rfl
@[simp] theorem State.setFb_reg (s : State) (fb : Framebuffer) (q : Reg) : (s.setFb fb).reg q = s.reg q := rfl
@[simp] theorem State.setFb_readMem (s : State) (fb : Framebuffer) (q : Nat) : (s.setFb fb).readMem q = s.readMem q := rfl
@[simp] theorem State.setFb_keyDown (s : State) (fb : Framebuffer) (q : Fin 16) : (s.setFb fb).keyDown q = s.keyDown q := rfl

/-! ## setDt -/

@[simp] theorem State.setDt_v (s : State) (b : Byte) : (s.setDt b).v = s.v := rfl
@[simp] theorem State.setDt_pc (s : State) (b : Byte) : (s.setDt b).pc = s.pc := rfl
@[simp] theorem State.setDt_i (s : State) (b : Byte) : (s.setDt b).i = s.i := rfl
@[simp] theorem State.setDt_sp (s : State) (b : Byte) : (s.setDt b).sp = s.sp := rfl
@[simp] theorem State.setDt_stack (s : State) (b : Byte) : (s.setDt b).stack = s.stack := rfl
@[simp] theorem State.setDt_dt (s : State) (b : Byte) : (s.setDt b).dt = b := rfl
@[simp] theorem State.setDt_st (s : State) (b : Byte) : (s.setDt b).st = s.st := rfl
@[simp] theorem State.setDt_mem (s : State) (b : Byte) : (s.setDt b).mem = s.mem := rfl
@[simp] theorem State.setDt_fb (s : State) (b : Byte) : (s.setDt b).fb = s.fb := rfl
@[simp] theorem State.setDt_dirty (s : State) (b : Byte) : (s.setDt b).dirty = s.dirty := rfl
@[simp] theorem State.setDt_key (s : State) (b : Byte) : (s.setDt b).key = s.key := rfl
@[simp] theorem State.setDt_halted (s : State) (b : Byte) : (s.setDt b).halted = s.halted := rfl
@[simp] theorem State.setDt_faultCode (s : State) (b : Byte) : (s.setDt b).faultCode = s.faultCode := rfl
@[simp] theorem State.setDt_faultInfo (s : State) (b : Byte) : (s.setDt b).faultInfo = s.faultInfo := rfl
@[simp] theorem State.setDt_draws (s : State) (b : Byte) : (s.setDt b).draws = s.draws := rfl
@[simp] theorem State.setDt_reg (s : State) (b : Byte) (q : Reg) : (s.setDt b).reg q = s.reg q := rfl
@[simp] theorem State.setDt_readMem (s : State) (b : Byte) (q : Nat) : (s.setDt b).readMem q = s.readMem q := rfl
@[simp] theorem State.setDt_cell (s : State) (b : Byte) (q : Nat) : (s.setDt b).cell q = s.cell q := rfl
@[simp] theorem State.setDt_keyDown (s : State) (b : Byte) (q : Fin 16) : (s.setDt b).keyDown q = s.keyDown q := rfl

/-! ## setSt -/

@[simp] theorem State.setSt_v (s : State) (b : Byte) : (s.setSt b).v = s.v := rfl
@[simp] theorem State.setSt_pc (s : State) (b : Byte) : (s.setSt b).pc = s.pc := rfl
@[simp] theorem State.setSt_i (s : State) (b : Byte) : (s.setSt b).i = s.i := rfl
@[simp] theorem State.setSt_sp (s : State) (b : Byte) : (s.setSt b).sp = s.sp := rfl
@[simp] theorem State.setSt_stack (s : State) (b : Byte) : (s.setSt b).stack = s.stack := rfl
@[simp] theorem State.setSt_dt (s : State) (b : Byte) : (s.setSt b).dt = s.dt := rfl
@[simp] theorem State.setSt_st (s : State) (b : Byte) : (s.setSt b).st = b := rfl
@[simp] theorem State.setSt_mem (s : State) (b : Byte) : (s.setSt b).mem = s.mem := rfl
@[simp] theorem State.setSt_fb (s : State) (b : Byte) : (s.setSt b).fb = s.fb := rfl
@[simp] theorem State.setSt_dirty (s : State) (b : Byte) : (s.setSt b).dirty = s.dirty := rfl
@[simp] theorem State.setSt_key (s : State) (b : Byte) : (s.setSt b).key = s.key := rfl
@[simp] theorem State.setSt_halted (s : State) (b : Byte) : (s.setSt b).halted = s.halted := rfl
@[simp] theorem State.setSt_faultCode (s : State) (b : Byte) : (s.setSt b).faultCode = s.faultCode := rfl
@[simp] theorem State.setSt_faultInfo (s : State) (b : Byte) : (s.setSt b).faultInfo = s.faultInfo := rfl
@[simp] theorem State.setSt_draws (s : State) (b : Byte) : (s.setSt b).draws = s.draws := rfl
@[simp] theorem State.setSt_reg (s : State) (b : Byte) (q : Reg) : (s.setSt b).reg q = s.reg q := rfl
@[simp] theorem State.setSt_readMem (s : State) (b : Byte) (q : Nat) : (s.setSt b).readMem q = s.readMem q := rfl
@[simp] theorem State.setSt_cell (s : State) (b : Byte) (q : Nat) : (s.setSt b).cell q = s.cell q := rfl
@[simp] theorem State.setSt_keyDown (s : State) (b : Byte) (q : Fin 16) : (s.setSt b).keyDown q = s.keyDown q := rfl

/-! ## decay -/

@[simp] theorem State.decay_v (s : State) : (s.decay).v = s.v := rfl
@[simp] theorem State.decay_pc (s : State) : (s.decay).pc = s.pc := rfl
@[simp] theorem State.decay_i (s : State) : (s.decay).i = s.i := rfl
@[simp] theorem State.decay_sp (s : State) : (s.decay).sp = s.sp := rfl
@[simp] theorem State.decay_stack (s : State) : (s.decay).stack = s.stack := rfl
@[simp] theorem State.decay_dt (s : State) : (s.decay).dt = countDown s.dt := rfl
@[simp] theorem State.decay_st (s : State) : (s.decay).st = countDown s.st := rfl
@[simp] theorem State.decay_mem (s : State) : (s.decay).mem = s.mem := rfl
@[simp] theorem State.decay_fb (s : State) : (s.decay).fb = s.fb := rfl
@[simp] theorem State.decay_dirty (s : State) : (s.decay).dirty = s.dirty := rfl
@[simp] theorem State.decay_key (s : State) : (s.decay).key = s.key := rfl
@[simp] theorem State.decay_halted (s : State) : (s.decay).halted = s.halted := rfl
@[simp] theorem State.decay_faultCode (s : State) : (s.decay).faultCode = s.faultCode := rfl
@[simp] theorem State.decay_faultInfo (s : State) : (s.decay).faultInfo = s.faultInfo := rfl
@[simp] theorem State.decay_draws (s : State) : (s.decay).draws = s.draws := rfl
@[simp] theorem State.decay_reg (s : State) (q : Reg) : (s.decay).reg q = s.reg q := rfl
@[simp] theorem State.decay_readMem (s : State) (q : Nat) : (s.decay).readMem q = s.readMem q := rfl
@[simp] theorem State.decay_cell (s : State) (q : Nat) : (s.decay).cell q = s.cell q := rfl
@[simp] theorem State.decay_keyDown (s : State) (q : Fin 16) : (s.decay).keyDown q = s.keyDown q := rfl

/-! ## countDraw -/

@[simp] theorem State.countDraw_v (s : State) : (s.countDraw).v = s.v := rfl
@[simp] theorem State.countDraw_pc (s : State) : (s.countDraw).pc = s.pc := rfl
@[simp] theorem State.countDraw_i (s : State) : (s.countDraw).i = s.i := rfl
@[simp] theorem State.countDraw_sp (s : State) : (s.countDraw).sp = s.sp := rfl
@[simp] theorem State.countDraw_stack (s : State) : (s.countDraw).stack = s.stack := rfl
@[simp] theorem State.countDraw_dt (s : State) : (s.countDraw).dt = s.dt := rfl
@[simp] theorem State.countDraw_st (s : State) : (s.countDraw).st = s.st := rfl
@[simp] theorem State.countDraw_mem (s : State) : (s.countDraw).mem = s.mem := rfl
@[simp] theorem State.countDraw_fb (s : State) : (s.countDraw).fb = s.fb := rfl
@[simp] theorem State.countDraw_dirty (s : State) : (s.countDraw).dirty = s.dirty := rfl
@[simp] theorem State.countDraw_key (s : State) : (s.countDraw).key = s.key := rfl
@[simp] theorem State.countDraw_halted (s : State) : (s.countDraw).halted = s.halted := rfl
@[simp] theorem State.countDraw_faultCode (s : State) : (s.countDraw).faultCode = s.faultCode := rfl
@[simp] theorem State.countDraw_faultInfo (s : State) : (s.countDraw).faultInfo = s.faultInfo := rfl
@[simp] theorem State.countDraw_draws (s : State) : (s.countDraw).draws = s.draws + 1 := rfl
@[simp] theorem State.countDraw_reg (s : State) (q : Reg) : (s.countDraw).reg q = s.reg q := rfl
@[simp] theorem State.countDraw_readMem (s : State) (q : Nat) : (s.countDraw).readMem q = s.readMem q := rfl
@[simp] theorem State.countDraw_cell (s : State) (q : Nat) : (s.countDraw).cell q = s.cell q := rfl
@[simp] theorem State.countDraw_keyDown (s : State) (q : Fin 16) : (s.countDraw).keyDown q = s.keyDown q := rfl

/-! ## raise -/

@[simp] theorem State.raise_v (s : State) (k : FaultKind) (n : Nat) : (s.raise k n).v = s.v := rfl
@[simp] theorem State.raise_pc (s : State) (k : FaultKind) (n : Nat) : (s.raise k n).pc = s.pc := rfl
@[simp] theorem State.raise_i (s : State) (k : FaultKind) (n : Nat) : (s.raise k n).i = s.i := rfl
@[simp] theorem State.raise_sp (s : State) (k : FaultKind) (n : Nat) : (s.raise k n).sp = s.sp := rfl
@[simp] theorem State.raise_stack (s : State) (k : FaultKind) (n : Nat) : (s.raise k n).stack = s.stack := rfl
@[simp] theorem State.raise_dt (s : State) (k : FaultKind) (n : Nat) : (s.raise k n).dt = s.dt := rfl
@[simp] theorem State.raise_st (s : State) (k : FaultKind) (n : Nat) : (s.raise k n).st = s.st := rfl
@[simp] theorem State.raise_mem (s : State) (k : FaultKind) (n : Nat) : (s.raise k n).mem = s.mem := rfl
@[simp] theorem State.raise_fb (s : State) (k : FaultKind) (n : Nat) : (s.raise k n).fb = s.fb := rfl
@[simp] theorem State.raise_dirty (s : State) (k : FaultKind) (n : Nat) : (s.raise k n).dirty = s.dirty := rfl
@[simp] theorem State.raise_key (s : State) (k : FaultKind) (n : Nat) : (s.raise k n).key = s.key := rfl
@[simp] theorem State.raise_halted (s : State) (k : FaultKind) (n : Nat) : (s.raise k n).halted = true := rfl
@[simp] theorem State.raise_faultCode (s : State) (k : FaultKind) (n : Nat) : (s.raise k n).faultCode = k.code := rfl
@[simp] theorem State.raise_faultInfo (s : State) (k : FaultKind) (n : Nat) : (s.raise k n).faultInfo = BitVec.ofNat 32 n := rfl
@[simp] theorem State.raise_draws (s : State) (k : FaultKind) (n : Nat) : (s.raise k n).draws = s.draws := rfl
@[simp] theorem State.raise_reg (s : State) (k : FaultKind) (n : Nat) (q : Reg) : (s.raise k n).reg q = s.reg q := rfl
@[simp] theorem State.raise_readMem (s : State) (k : FaultKind) (n : Nat) (q : Nat) : (s.raise k n).readMem q = s.readMem q := rfl
@[simp] theorem State.raise_cell (s : State) (k : FaultKind) (n : Nat) (q : Nat) : (s.raise k n).cell q = s.cell q := rfl
@[simp] theorem State.raise_keyDown (s : State) (k : FaultKind) (n : Nat) (q : Fin 16) : (s.raise k n).keyDown q = s.keyDown q := rfl

/-! ## The register file -/

/-- A register written reads as written, every other as before (R11). -/
@[simp] theorem State.setReg_reg (s : State) (r : Reg) (b : Byte) (q : Reg) :
    (s.setReg r b).reg q = if q = r then b else s.reg q := by
  by_cases h : q = r
  · subst h; simp [State.reg, State.setReg]
  · have : (r : Nat) ≠ q := fun e => h (Fin.ext e.symm)
    simp [State.reg, State.setReg, h, Vector.getElem_set_ne, this]

/-! ## Memory, framebuffer and stack reads of their own updates -/

@[simp] theorem State.setFb_cell (s : State) (fb : Framebuffer) (q : Nat) : (s.setFb fb).cell q = fb.getLsbD q := rfl

@[simp] theorem State.writeMem_readMem_eq (s : State) (a : Nat) (b : Byte) (q : Nat) :
    (s.writeMem a b).readMem q = (s.mem.write a b).read q := rfl

/-! ## The state after INIT (R26) -/

@[simp] theorem State.reset_reg (q : Reg) : State.reset.reg q = 0 := by
  simp [State.reg, State.reset]
@[simp] theorem State.reset_readMem (a : Nat) : State.reset.readMem a = initialByte a := rfl
@[simp] theorem State.reset_cell (q : Nat) : State.reset.cell q = false := by
  simp [State.cell, State.reset]
@[simp] theorem State.reset_keyDown (q : Fin 16) : State.reset.keyDown q = false := by
  simp [State.keyDown, State.reset]

end Sys2Proof.Machine
end

