-- ==== Sys2Proof/Laws/Memory.lean ====
section
/-! SUPPORT. The laws of memory: a read after a write, and that a write keeps the canonical form (spec/20_memory.md R40, R48). -/

namespace Sys2Proof.Machine

theorem Memory.lookup_none_of_below (m : Memory) (a : Nat) (h : ∀ c ∈ m, a < c.1) : m.lookup a = none := by
  induction m with
  | nil => rfl
  | cons c m ih =>
    obtain ⟨k, b⟩ := c
    have hk : a < k := h (k, b) (by simp)
    simp only [Memory.lookup]
    rw [if_neg (by omega)]
    exact ih fun c hc => h c (by simp [hc])

/-- A read after a write: the byte written at its address, the old byte everywhere else. -/
theorem Memory.read_write (m : Memory) (hm : m.Pairwise fun c d => c.1 < d.1) (a : Nat) (b : Byte) (q : Nat) :
    (m.write a b).read q = if q = a then b else m.read q := by
  induction m with
  | nil =>
    by_cases hb : b = initialByte a <;> by_cases hq : q = a <;>
      simp_all [Memory.write, Memory.read, Memory.lookup, eq_comm]
  | cons c m ih =>
    obtain ⟨k, d⟩ := c
    rw [List.pairwise_cons] at hm
    have ih := ih hm.2
    have below : ∀ x, x ≤ k → Memory.lookup m x = none := fun x hx =>
      Memory.lookup_none_of_below m x fun c hc => by have := hm.1 c hc; simp only at this; omega
    simp only [Memory.read] at ih
    simp only [Memory.write]
    split
    · by_cases hq : q = k
      · subst hq; simp [Memory.read, Memory.lookup]; intro h; omega
      · simp only [Memory.read, Memory.lookup, if_neg (Ne.symm hq)]; exact ih
    · split
      · rename_i h1 h2; subst h2
        by_cases hb : b = initialByte k <;> by_cases hq : q = k
        · subst hq; simp [hb, Memory.read, below]
        · simp [hb, Memory.read, Memory.lookup, hq, Ne.symm hq]
        · subst hq; simp [hb, Memory.read, Memory.lookup]
        · simp [hb, Memory.read, Memory.lookup, hq, Ne.symm hq]
      · rename_i h1 h2
        by_cases hb : b = initialByte a <;> by_cases hq : q = a
        · subst hq; simp [hb, Memory.read, Memory.lookup, h2, below q (by omega)]
        · simp [hb, hq]
        · subst hq; simp [hb, Memory.read, Memory.lookup]
        · simp [hb, hq, Memory.read, Memory.lookup, Ne.symm hq]

theorem Memory.mem_write (m : Memory) (a : Nat) (b : Byte) (c : Host.Cell) (h : c ∈ m.write a b) :
    c ∈ m ∨ (c = (a, b) ∧ b ≠ initialByte a) := by
  induction m with
  | nil => simp only [Memory.write] at h; split at h <;> simp_all
  | cons d m ih =>
    obtain ⟨k, e⟩ := d
    simp only [Memory.write] at h
    split at h
    · rcases List.mem_cons.mp h with h | h
      · simp [h]
      · rcases ih h with h | h <;> simp [h]
    · split at h <;> split at h <;> simp_all <;> tauto

/-- A write keeps the addresses strictly rising. -/
theorem Memory.write_pairwise (m : Memory) (a : Nat) (b : Byte) (hm : m.Pairwise fun c d => c.1 < d.1) :
    (m.write a b).Pairwise fun c d => c.1 < d.1 := by
  induction m with
  | nil => simp only [Memory.write]; split <;> simp
  | cons d m ih =>
    obtain ⟨k, e⟩ := d
    rw [List.pairwise_cons] at hm
    simp only [Memory.write]
    split
    · rename_i h
      refine List.pairwise_cons.mpr ⟨fun c hc => ?_, ih hm.2⟩
      rcases Memory.mem_write m a b c hc with hc | hc
      · exact hm.1 c hc
      · rw [hc.1]; exact h
    · split
      · rename_i h1 h2; subst h2
        split
        · exact hm.2
        · exact List.pairwise_cons.mpr ⟨hm.1, hm.2⟩
      · rename_i h1 h2
        split
        · exact List.pairwise_cons.mpr hm
        · refine List.pairwise_cons.mpr ⟨fun c hc => ?_, List.pairwise_cons.mpr hm⟩
          rcases List.mem_cons.mp hc with hc | hc
          · subst hc; simp only; omega
          · have := hm.1 c hc; simp only at this ⊢; omega

/-- A write below 4096 keeps the canonical form. -/
theorem Memory.write_wf (m : Memory) (a : Nat) (b : Byte) (hm : m.wf) (ha : a < Config.memSize) : (m.write a b).wf := by
  refine ⟨Memory.write_pairwise m a b hm.1, fun c hc => ?_⟩
  rcases Memory.mem_write m a b c hc with hc | ⟨rfl, hb⟩
  · exact hm.2 c hc
  · exact ⟨ha, hb⟩

/-- Memory after INIT is canonical. -/
theorem Memory.reset_wf : State.reset.mem.wf := by simp [State.reset, Memory.wf]

/-- MEM after one store, for a canonical memory. -/
theorem State.writeMem_readMem (s : State) (hm : s.mem.Pairwise fun c d => c.1 < d.1) (a : Nat) (b : Byte) (q : Nat) :
    (s.writeMem a b).readMem q = if q = a then b else s.readMem q :=
  Memory.read_write s.mem hm a b q

/-! ## Consecutive stores -/

/-- Consecutive stores change memory only. -/
theorem State.writeBytes_eq (s : State) (a : Nat) (bs : List Byte) :
    s.writeBytes a bs = { s with mem := (s.writeBytes a bs).mem } := by
  induction bs generalizing s a with
  | nil => rfl
  | cons b bs ih => rw [State.writeBytes, ih]; rfl

theorem State.writeBytes_pairwise (s : State) (a : Nat) (bs : List Byte) (hm : s.mem.Pairwise fun c d => c.1 < d.1) :
    (s.writeBytes a bs).mem.Pairwise fun c d => c.1 < d.1 := by
  induction bs generalizing s a with
  | nil => exact hm
  | cons b bs ih => exact ih _ _ (Memory.write_pairwise _ _ _ hm)

/-- Consecutive stores that end below 4096 keep the canonical form. -/
theorem State.writeBytes_wf (s : State) (a : Nat) (bs : List Byte) (hm : s.mem.wf) (ha : a + bs.length ≤ Config.memSize) :
    (s.writeBytes a bs).mem.wf := by
  induction bs generalizing s a with
  | nil => exact hm
  | cons b bs ih =>
    rw [List.length_cons] at ha
    exact ih _ _ (Memory.write_wf _ _ _ hm (by omega)) (by omega)

/-- Memory after consecutive stores: the bytes stored, in order, and every other byte as before. -/
theorem State.writeBytes_readMem (s : State) (a : Nat) (bs : List Byte) (hm : s.mem.Pairwise fun c d => c.1 < d.1) (q : Nat) :
    (s.writeBytes a bs).readMem q = if a ≤ q ∧ q < a + bs.length then bs.getD (q - a) 0 else s.readMem q := by
  induction bs generalizing s a with
  | nil => simp only [State.writeBytes, List.length_nil]; rw [if_neg (by omega)]
  | cons b bs ih =>
    rw [State.writeBytes, ih _ _ (Memory.write_pairwise _ _ _ hm), State.writeMem_readMem s hm, List.length_cons]
    by_cases h1 : q = a
    · subst h1; simp
    · by_cases h2 : a + 1 ≤ q ∧ q < a + 1 + bs.length
      · rw [if_pos h2, if_pos (by omega)]
        obtain ⟨j, rfl⟩ : ∃ j, q = a + 1 + j := ⟨q - (a + 1), by omega⟩
        have e1 : a + 1 + j - (a + 1) = j := by omega
        have e2 : a + 1 + j - a = j + 1 := by omega
        rw [e1, e2]; simp
      · rw [if_neg h2, if_neg h1, if_neg (by omega)]

end Sys2Proof.Machine
end

