-- ==== Sys2Proof/Laws/Ops.lean ====
section
/-! SUPPORT. One lemma per shared operation, saying once everything it can do: the address check, the block transfers, drawing a
list of cells, the lowest key, the narrowing functions and the flags. -/

namespace Sys2Proof.Machine

/-! ## The address check (R44) -/

/-- The check of consecutive addresses: none fails when the last is below 4096, else the lowest bad one is max(a, 4096). -/
theorem lowestOutOfRange_addressesFrom (a len : Nat) :
    lowestOutOfRange (addressesFrom a len) = if a + len ≤ 4096 ∨ len = 0 then none else some (max a 4096) := by
  have key : ((List.range len).map (a + ·)).find? (fun b => decide (4096 ≤ b)) =
      if a + len ≤ 4096 ∨ len = 0 then none else some (max a 4096) := by
    induction len with
    | zero => simp
    | succ n ih =>
      rw [List.range_succ, List.map_append, List.find?_append, ih]
      by_cases h' : a + n ≤ 4096 ∨ n = 0
      · rw [if_pos h']
        by_cases h : 4096 ≤ a + n
        · rw [if_neg (by omega)]; simp [h]; omega
        · rw [if_pos (by omega)]; simp; omega
      · rw [if_neg h', if_neg (by omega)]; rfl
  exact key

/-- A checked instruction: the rest when every address is below 4096, else MEMORY_OUT_OF_RANGE at the lowest bad one. -/
theorem checked_indexAddresses (s : State) (len : Nat) (rest : Result) :
    checked s (indexAddresses s len) rest =
      if s.i.toNat + len ≤ 4096 ∨ len = 0 then rest else .next (s.raise .memoryOutOfRange (max s.i.toNat 4096)) := by
  unfold checked indexAddresses
  rw [lowestOutOfRange_addressesFrom]
  split <;> rename_i h <;> split at h <;> simp_all

/-- The fetch: the big-endian word at pc, or the lowest of pc, pc + 1 that is out of range. -/
theorem fetch_eq (s : State) :
    fetch s = if s.pc.toNat + 1 < 4096 then .ok (wordOfBytes (s.readMem s.pc.toNat) (s.readMem (s.pc.toNat + 1)))
      else .error (max s.pc.toNat 4096) := by
  unfold fetch fetchAddresses
  rw [lowestOutOfRange_addressesFrom]
  by_cases h : s.pc.toNat + 1 < 4096
  · rw [if_pos (by omega), if_pos h]
  · rw [if_neg (by omega), if_neg h]

/-- The word of two bytes as a number: 256 times the first plus the second (R45). -/
theorem wordOfBytes_eq (hi lo : Byte) : wordOfBytes hi lo = u16 (256 * hi.toNat + lo.toNat) := by
  apply BitVec.eq_of_toNat_eq
  have h1 := hi.isLt
  have h2 := lo.isLt
  simp only [wordOfBytes, u16, BitVec.toNat_append, BitVec.toNat_ofNat]
  rw [← Nat.shiftLeft_add_eq_or_of_lt h2, Nat.shiftLeft_eq]
  omega

/-! ## V0 to VX -/

@[simp] theorem mem_allRegs (r : Reg) : r ∈ allRegs := by revert r; decide

@[simp] theorem mem_regsTo (x r : Reg) : r ∈ regsTo x ↔ r ≤ x := by simp [regsTo]

theorem nodup_regsTo (x : Reg) : (regsTo x).Nodup := List.Nodup.filter _ (by decide)

/-- FX55 changes memory only. -/
theorem storeAll_eq (s : State) (rs : List Reg) : storeAll s rs = { s with mem := (storeAll s rs).mem } := by
  have gen : ∀ (f : State → Reg → State) (_ : ∀ t r, f t r = { t with mem := (f t r).mem }) (rs : List Reg) (t : State),
      rs.foldl f t = { t with mem := (rs.foldl f t).mem } := by
    intro f hf rs
    induction rs with
    | nil => intro t; rfl
    | cons r rs ih => intro t; rw [List.foldl_cons, ih, hf]
  exact gen _ (fun t r => rfl) rs s

/-- Memory after FX55: byte I + r is V[r] for each r stored, every other byte as before. -/
theorem storeAll_spec (s : State) (hm : s.mem.Pairwise fun c d => c.1 < d.1) (rs : List Reg) :
    ((storeAll s rs).mem.Pairwise fun c d => c.1 < d.1) ∧
    (∀ r ∈ rs, (storeAll s rs).readMem (s.i.toNat + r.val) = s.reg r) ∧
    (∀ q, (∀ r ∈ rs, q ≠ s.i.toNat + r.val) → (storeAll s rs).readMem q = s.readMem q) := by
  induction rs using List.reverseRecOn with
  | nil => exact ⟨hm, by simp, fun q _ => rfl⟩
  | append_singleton rs r ih =>
    obtain ⟨hp, h1, h2⟩ := ih
    have e : storeAll s (rs ++ [r]) = (storeAll s rs).writeMem (s.i.toNat + r.val) (s.reg r) := by simp [storeAll]
    have rd := State.writeMem_readMem (storeAll s rs) hp (s.i.toNat + r.val) (s.reg r)
    rw [e]
    refine ⟨Memory.write_pairwise _ _ _ hp, fun q hq => ?_, fun q hq => ?_⟩
    · rw [rd]
      by_cases hqr : q = r
      · subst hqr; simp
      · rw [if_neg (by intro h; exact hqr (Fin.ext (by omega)))]
        exact h1 q (by simpa [hqr] using hq)
    · rw [rd, if_neg (hq r (by simp))]
      exact h2 q fun r' hr' => hq r' (by simp [hr'])

/-- FX55 keeps the canonical form when its addresses are below 4096. -/
theorem storeAll_wf (s : State) (hm : s.mem.wf) (rs : List Reg) (ha : ∀ r ∈ rs, s.i.toNat + r.val < 4096) :
    (storeAll s rs).mem.wf := by
  induction rs using List.reverseRecOn with
  | nil => exact hm
  | append_singleton rs r ih =>
    have e : storeAll s (rs ++ [r]) = (storeAll s rs).writeMem (s.i.toNat + r.val) (s.reg r) := by simp [storeAll]
    rw [e]
    exact Memory.write_wf _ _ _ (ih fun r' hr' => ha r' (by simp [hr'])) (ha r (by simp))

/-- FX65 changes the register file only. -/
theorem loadAll_eq (s : State) (rs : List Reg) : loadAll s rs = { s with v := (loadAll s rs).v } := by
  have gen : ∀ (f : State → Reg → State) (_ : ∀ t r, f t r = { t with v := (f t r).v }) (rs : List Reg) (t : State),
      rs.foldl f t = { t with v := (rs.foldl f t).v } := by
    intro f hf rs
    induction rs with
    | nil => intro t; rfl
    | cons r rs ih => intro t; rw [List.foldl_cons, ih, hf]
  exact gen _ (fun t r => rfl) rs s

/-- The registers after FX65: V[r] is byte I + r for each r loaded, every other register as before. -/
theorem loadAll_reg (s : State) (rs : List Reg) (q : Reg) :
    (loadAll s rs).reg q = if q ∈ rs then s.readMem (s.i.toNat + q.val) else s.reg q := by
  induction rs using List.reverseRecOn with
  | nil => simp [loadAll]
  | append_singleton rs r ih =>
    have e : loadAll s (rs ++ [r]) = (loadAll s rs).setReg r (s.readMem (s.i.toNat + r.val)) := by simp [loadAll]
    rw [e, State.setReg_reg, ih]
    by_cases h : q = r
    · subst h; simp
    · simp [h]

/-! ## Drawing (R192) -/

theorem flipCell_getLsbD (fb : Framebuffer) (a q : Nat) :
    (flipCell fb a).getLsbD q = (fb.getLsbD q ^^ (decide (a = q) && decide (q < 2048))) := by
  simp only [flipCell, BitVec.getLsbD_xor, BitVec.getLsbD_twoPow]
  by_cases h : q < 2048 <;> by_cases h' : a = q <;> simp [h, h']

/-- The framebuffer after XORing a list of distinct cells: exactly those cells are flipped; the collision flag says whether one
of them was set. -/
theorem drawCells_spec (fb : Framebuffer) (cells : List (Nat × Nat))
    (hd : (cells.map fun p => cellIndex p.1 p.2).Nodup) :
    (∀ q, (drawCells fb cells).1.getLsbD q =
      (fb.getLsbD q ^^ (decide (q ∈ cells.map fun p => cellIndex p.1 p.2) && decide (q < 2048)))) ∧
    ((drawCells fb cells).2 = cells.any fun p => fb.getLsbD (cellIndex p.1 p.2)) := by
  induction cells using List.reverseRecOn with
  | nil => simp [drawCells]
  | append_singleton cells p ih =>
    rw [List.map_append, List.nodup_append] at hd
    obtain ⟨hd1, -, hd2⟩ := hd
    obtain ⟨h1, h2⟩ := ih hd1
    have e : drawCells fb (cells ++ [p]) = drawCell (drawCells fb cells) p := by simp [drawCells]
    have hp : cellIndex p.1 p.2 ∉ cells.map fun p => cellIndex p.1 p.2 := fun h =>
      hd2 _ h _ (by simp) rfl
    refine ⟨fun q => ?_, ?_⟩
    · rw [e]
      simp only [drawCell, flipCell_getLsbD, h1, List.map_append, List.mem_append, List.map_cons, List.map_nil,
        List.mem_singleton]
      by_cases hq : q = cellIndex p.1 p.2
      · subst hq; simp [hp]
      · simp [hq, Ne.symm hq]
    · rw [e]
      simp only [drawCell, h2, h1, List.any_append, List.any_cons, List.any_nil, Bool.or_false]
      simp [hp]

/-- The cells of one row byte: column x0 + c of row y for each set bit 7 - c (R190). -/
theorem mem_rowCells (x0 y : Nat) (b : Byte) (p : Nat × Nat) :
    p ∈ rowCells x0 y b ↔ ∃ c, c < 8 ∧ b.getLsbD (7 - c) = true ∧ p = (x0 + c, y) := by
  simp only [rowCells, List.mem_map, List.mem_filter, List.mem_range]
  constructor
  · rintro ⟨c, ⟨h1, h2⟩, rfl⟩; exact ⟨c, h1, h2, rfl⟩
  · rintro ⟨c, h1, h2, rfl⟩; exact ⟨c, ⟨h1, h2⟩, rfl⟩

/-- The cells of a sprite: one for each set bit (r, c) (R190, R192). -/
theorem mem_spriteCells (x0 y : Nat) (rows : List Byte) (p : Nat × Nat) :
    p ∈ spriteCells x0 y rows ↔
      ∃ r c, r < rows.length ∧ c < 8 ∧ (rows.getD r 0).getLsbD (7 - c) = true ∧ p = (x0 + c, y + r) := by
  induction rows generalizing y with
  | nil => simp [spriteCells]
  | cons b bs ih =>
    simp only [spriteCells, List.mem_append, mem_rowCells, ih, List.length_cons]
    constructor
    · rintro (⟨c, h1, h2, rfl⟩ | ⟨r, c, h1, h2, h3, rfl⟩)
      · exact ⟨0, c, by omega, h1, by simpa using h2, rfl⟩
      · exact ⟨r + 1, c, by omega, h2, by simpa using h3, by simp; omega⟩
    · rintro ⟨r, c, h1, h2, h3, rfl⟩
      cases r with
      | zero => exact .inl ⟨c, h2, by simpa using h3, rfl⟩
      | succ r => exact .inr ⟨r, c, by omega, h2, by simpa using h3, by simp; omega⟩

/-- The cells of a sprite come in row-then-column order (R192). -/
theorem spriteCells_pairwise (x0 y : Nat) (rows : List Byte) :
    (spriteCells x0 y rows).Pairwise fun p q => p.2 < q.2 ∨ p.2 = q.2 ∧ p.1 < q.1 := by
  induction rows generalizing y with
  | nil => exact List.Pairwise.nil
  | cons b bs ih =>
    refine List.pairwise_append.mpr ⟨?_, ih _, fun p hp q hq => ?_⟩
    · refine List.pairwise_map.mpr ((List.pairwise_lt_range.filter _).imp ?_)
      intro a c h; exact .inr ⟨rfl, by simp only; omega⟩
    · obtain ⟨c, -, -, rfl⟩ := (mem_rowCells _ _ _ _).mp hp
      obtain ⟨r, c', -, -, -, rfl⟩ := (mem_spriteCells _ _ _ _).mp hq
      exact .inl (by simp only; omega)

/-- Cells on the grid have distinct indices (R21). -/
theorem spriteCells_nodup (x0 y : Nat) (rows : List Byte) (hg : ∀ p ∈ spriteCells x0 y rows, offGrid p = false) :
    ((spriteCells x0 y rows).map fun p => cellIndex p.1 p.2).Nodup := by
  refine List.pairwise_map.mpr ((spriteCells_pairwise x0 y rows).imp_of_mem ?_)
  intro p q hp hq h
  have h1 : (decide (64 ≤ p.1) || decide (32 ≤ p.2)) = false := hg p hp
  have h2 : (decide (64 ≤ q.1) || decide (32 ≤ q.2)) = false := hg q hq
  simp only [Bool.or_eq_false_iff, decide_eq_false_iff_not] at h1 h2
  change p.1 + p.2 * 64 ≠ q.1 + q.2 * 64
  omega

/-- The rows of a sprite are the n bytes from I (R190). -/
theorem spriteRows_length (s : State) (n : Nat) : (spriteRows s n).length = n := by
  simp [spriteRows, indexAddresses, addressesFrom]

theorem spriteRows_getD (s : State) (n r : Nat) (h : r < n) : (spriteRows s n).getD r 0 = s.readMem (s.i.toNat + r) := by
  simp [spriteRows, indexAddresses, addressesFrom, List.getD, h]

/-! ## The lowest key (R213) -/

theorem lowestKey_eq_none (s : State) : s.lowestKey = none ↔ ∀ k, s.keyDown k = false := by
  simp [State.lowestKey, List.find?_eq_none]

/-- The lowest key is down and every lower one is up. -/
theorem lowestKey_eq_some (s : State) (k : Fin 16) :
    s.lowestKey = some k ↔ s.keyDown k = true ∧ ∀ j, j < k → s.keyDown j = false := by
  have sorted : allRegs.Pairwise (· < ·) := by decide
  constructor
  · intro h
    obtain ⟨hk, as, bs, e, hbefore⟩ := List.find?_eq_some_iff_append.mp h
    refine ⟨hk, fun j hj => ?_⟩
    have hj' : j ∈ as ++ k :: bs := e ▸ mem_allRegs j
    rcases List.mem_append.mp hj' with hj' | hj'
    · simpa using hbefore j hj'
    · rw [e, List.pairwise_append] at sorted
      rcases List.mem_cons.mp hj' with rfl | hj'
      · exact absurd hj (lt_irrefl _)
      · exact absurd hj (not_lt_of_gt ((List.pairwise_cons.mp sorted.2.1).1 j hj'))
  · rintro ⟨hk, hlow⟩
    cases h : s.lowestKey with
    | none => rw [lowestKey_eq_none] at h; simp [h k] at hk
    | some j =>
      obtain ⟨hj, as, bs, e, hbefore⟩ := List.find?_eq_some_iff_append.mp h
      have hk' : k ∈ as ++ j :: bs := e ▸ mem_allRegs k
      rcases List.mem_append.mp hk' with hk' | hk'
      · exact absurd hk (by simpa using hbefore k hk')
      · rcases List.mem_cons.mp hk' with rfl | hk'
        · rfl
        · rw [e, List.pairwise_append] at sorted
          have := (List.pairwise_cons.mp sorted.2.1).1 k hk'
          simp [hlow j this] at hj

/-! ## Narrowing and flags -/

@[simp] theorem u8_toNat (n : Nat) : (u8 n).toNat = n % 256 := by simp [u8]
@[simp] theorem u16_toNat (n : Nat) : (u16 n).toNat = n % 65536 := by simp [u16]
theorem u8Int_toNat (n : Int) : ((u8Int n).toNat : Int) = n % 256 := by simp [u8Int, BitVec.toNat_ofInt]; omega
theorem countDown_toNat (b : Byte) : (countDown b).toNat = b.toNat - 1 := by
  unfold countDown
  split
  · rename_i h; subst h; rfl
  · rename_i h
    have : b.toNat ≠ 0 := fun e => h (BitVec.eq_of_toNat_eq (by simpa using e))
    have := b.isLt
    rw [BitVec.toNat_sub]; simp; omega

end Sys2Proof.Machine
end

