-- ==== Sys2Proof/Laws/Encoding.lean ====
section
/-! SUPPORT. The fields of a word as arithmetic on its number, the words of the encoder as numbers, and that every Instr is well
formed (spec/30_encoding.md R61, R62, R69). -/

namespace Sys2Proof

open Sys2Proof.Machine

theorem fieldFits_reg (x : Reg) : fieldFits 4 x.val = true := decide_eq_true x.isLt

theorem fieldFits_toNat {w : Nat} (b : BitVec w) : fieldFits w b.toNat = true := decide_eq_true b.isLt

/-- Every instruction is well formed: the operand types carry the field widths. -/
theorem Instr.wellFormed_true (i : Instr) : i.wellFormed = true := by
  cases i <;> simp [Instr.wellFormed, Instr.operandFields, fieldFits_reg, fieldFits_toNat]

/-! ## Fields as arithmetic -/

theorem extract_toNat (op : Word) (lo len : Nat) : (op.extractLsb' lo len).toNat = op.toNat / 2 ^ lo % 2 ^ len := by
  simp [BitVec.extractLsb'_toNat, Nat.shiftRight_eq_div_pow]

theorem familyOf_eq (op : Word) : familyOf op = op.toNat / 4096 := by
  have := op.isLt
  rw [familyOf, extract_toNat]; omega

theorem xOf_val (op : Word) : (xOf op).val = op.toNat / 256 % 16 := extract_toNat op 8 4
theorem yOf_val (op : Word) : (yOf op).val = op.toNat / 16 % 16 := extract_toNat op 4 4
theorem nOf_toNat (op : Word) : (nOf op).toNat = op.toNat % 16 := by rw [nOf, extract_toNat]; omega
theorem nnOf_toNat (op : Word) : (nnOf op).toNat = op.toNat % 256 := by rw [nnOf, extract_toNat]; omega
theorem nnnOf_toNat (op : Word) : (nnnOf op).toNat = op.toNat % 4096 := by rw [nnnOf, extract_toNat]; omega

/-! ## The encoder's formats as numbers -/

theorem append_toNat {m n : Nat} (a : BitVec m) (b : BitVec n) : (a ++ b).toNat = a.toNat * 2 ^ n + b.toNat := by
  rw [BitVec.toNat_append, ← Nat.shiftLeft_add_eq_or_of_lt b.isLt, Nat.shiftLeft_eq]

theorem fmtNNN_toNat (f : Nibble) (nnn : Addr12) : (fmtNNN f nnn).toNat = 0x1000 * f.toNat + nnn.toNat := by
  have e : (fmtNNN f nnn).toNat = (f ++ nnn).toNat := rfl
  rw [e, append_toNat]; omega

theorem fmtXNN_toNat (f : Nibble) (x : Reg) (nn : Byte) :
    (fmtXNN f x nn).toNat = 0x1000 * f.toNat + 0x100 * x.val + nn.toNat := by
  have e : (fmtXNN f x nn).toNat = (f ++ BitVec.ofFin (w := 4) x ++ nn).toNat := rfl
  have ex : (BitVec.ofFin (w := 4) x).toNat = x.val := rfl
  rw [e, append_toNat, append_toNat, ex]; omega

theorem fmtXYN_toNat (f : Nibble) (x y : Reg) (n : Nibble) :
    (fmtXYN f x y n).toNat = 0x1000 * f.toNat + 0x100 * x.val + 0x10 * y.val + n.toNat := by
  have e : (fmtXYN f x y n).toNat = (f ++ BitVec.ofFin (w := 4) x ++ BitVec.ofFin (w := 4) y ++ n).toNat := rfl
  have ex : (BitVec.ofFin (w := 4) x).toNat = x.val := rfl
  have ey : (BitVec.ofFin (w := 4) y).toNat = y.val := rfl
  rw [e, append_toNat, append_toNat, append_toNat, ex, ey]; omega

/-! ## The fields of a word written out as a number -/

theorem fields_NNN (f : Nat) (nnn : Addr12) (hf : f < 16) :
    familyOf (u16 (0x1000 * f + nnn.toNat)) = f ∧ nnnOf (u16 (0x1000 * f + nnn.toNat)) = nnn := by
  have := nnn.isLt
  refine ⟨?_, BitVec.eq_of_toNat_eq ?_⟩
  · rw [familyOf_eq, u16_toNat]; omega
  · rw [nnnOf_toNat, u16_toNat]; omega

theorem fields_XNN (f : Nat) (x : Reg) (nn : Byte) (hf : f < 16) :
    familyOf (u16 (0x1000 * f + 0x100 * x.val + nn.toNat)) = f ∧ xOf (u16 (0x1000 * f + 0x100 * x.val + nn.toNat)) = x ∧
      nnOf (u16 (0x1000 * f + 0x100 * x.val + nn.toNat)) = nn := by
  have := nn.isLt
  have := x.isLt
  refine ⟨?_, Fin.ext ?_, BitVec.eq_of_toNat_eq ?_⟩
  · rw [familyOf_eq, u16_toNat]; omega
  · rw [xOf_val, u16_toNat]; omega
  · rw [nnOf_toNat, u16_toNat]; omega

theorem fields_XYN (f : Nat) (x y : Reg) (n : Nibble) (hf : f < 16) :
    familyOf (u16 (0x1000 * f + 0x100 * x.val + 0x10 * y.val + n.toNat)) = f ∧
      xOf (u16 (0x1000 * f + 0x100 * x.val + 0x10 * y.val + n.toNat)) = x ∧
      yOf (u16 (0x1000 * f + 0x100 * x.val + 0x10 * y.val + n.toNat)) = y ∧
      nOf (u16 (0x1000 * f + 0x100 * x.val + 0x10 * y.val + n.toNat)) = n := by
  have := n.isLt
  have := x.isLt
  have := y.isLt
  refine ⟨?_, Fin.ext ?_, Fin.ext ?_, BitVec.eq_of_toNat_eq ?_⟩
  · rw [familyOf_eq, u16_toNat]; omega
  · rw [xOf_val, u16_toNat]; omega
  · rw [yOf_val, u16_toNat]; omega
  · rw [nOf_toNat, u16_toNat]; omega

end Sys2Proof
end

