-- ==== Sys2Proof/Laws/PerInstr.lean ====
section
/-! SUPPORT. Per-instruction laws about an instruction as syntax. Family EncodesToRow: the word of an instruction belongs to its row
of the opcode map, (op & mask) == match (spec/30_encoding.md R63). One lemma per constructor of Instr. -/

namespace Sys2Proof.Laws.EncodesToRow

/-- The word the encoder gives the instruction has, under its row's mask, its row's match (R63). -/
def Statement (i : Instr) : Prop := encode i &&& (rowOf i).mask = (rowOf i).pattern

/-! ## The masks of the formats (R62) -/

/-- A field under a mask of zeros. -/
theorem and_zeros {w : Nat} (b : BitVec w) : b &&& (0 : BitVec w) = 0 := BitVec.and_zero

theorem keep4 (b : BitVec 4) : b &&& (0xF : BitVec 4) = b := BitVec.and_allOnes

theorem keep8 (b : BitVec 8) : b &&& (0xFF : BitVec 8) = b := BitVec.and_allOnes

theorem maskNNN (f : Nibble) (nnn : Addr12) (p : Word) (hp : f ++ (0 : BitVec 12) = p) : fmtNNN f nnn &&& 0xF000 = p := by
  have e : fmtNNN f nnn &&& 0xF000 = (f ++ nnn) &&& ((0xF : BitVec 4) ++ (0 : BitVec 12)) := rfl
  rw [e, BitVec.and_append, keep4, and_zeros, hp]

theorem maskXfn (f : Nibble) (x : Reg) (low : Byte) (p : Word) (hp : f ++ (0 : BitVec 4) ++ low = p) :
    fmtXNN f x low &&& 0xF0FF = p := by
  have e : fmtXNN f x low &&& 0xF0FF =
      (f ++ BitVec.ofFin (w := 4) x ++ low) &&& ((0xF : BitVec 4) ++ (0 : BitVec 4) ++ (0xFF : BitVec 8)) := rfl
  rw [e, BitVec.and_append, BitVec.and_append, keep4, keep8, and_zeros, hp]

theorem maskXNN (f : Nibble) (x : Reg) (nn : Byte) (p : Word) (hp : f ++ (0 : BitVec 4) ++ (0 : BitVec 8) = p) :
    fmtXNN f x nn &&& 0xF000 = p := by
  have e : fmtXNN f x nn &&& 0xF000 =
      (f ++ BitVec.ofFin (w := 4) x ++ nn) &&& ((0xF : BitVec 4) ++ (0 : BitVec 4) ++ (0 : BitVec 8)) := rfl
  rw [e, BitVec.and_append, BitVec.and_append, keep4, and_zeros, and_zeros, hp]

theorem maskXY (f : Nibble) (x y : Reg) (n : Nibble) (p : Word)
    (hp : f ++ (0 : BitVec 4) ++ (0 : BitVec 4) ++ n = p) : fmtXYN f x y n &&& 0xF00F = p := by
  have e : fmtXYN f x y n &&& 0xF00F = (f ++ BitVec.ofFin (w := 4) x ++ BitVec.ofFin (w := 4) y ++ n) &&&
      ((0xF : BitVec 4) ++ (0 : BitVec 4) ++ (0 : BitVec 4) ++ (0xF : BitVec 4)) := rfl
  rw [e, BitVec.and_append, BitVec.and_append, BitVec.and_append, keep4 f, keep4 n, and_zeros, and_zeros, hp]

theorem maskXYN (f : Nibble) (x y : Reg) (n : Nibble) (p : Word)
    (hp : f ++ (0 : BitVec 4) ++ (0 : BitVec 4) ++ (0 : BitVec 4) = p) : fmtXYN f x y n &&& 0xF000 = p := by
  have e : fmtXYN f x y n &&& 0xF000 = (f ++ BitVec.ofFin (w := 4) x ++ BitVec.ofFin (w := 4) y ++ n) &&&
      ((0xF : BitVec 4) ++ (0 : BitVec 4) ++ (0 : BitVec 4) ++ (0 : BitVec 4)) := rfl
  rw [e, BitVec.and_append, BitVec.and_append, BitVec.and_append, keep4, and_zeros, and_zeros, and_zeros, hp]

/-! ## One lemma per constructor -/

theorem cls : Statement .cls := rfl
theorem ret : Statement .ret := rfl
theorem jp (nnn : Addr12) : Statement (.jp nnn) := maskNNN _ _ _ rfl
theorem call (nnn : Addr12) : Statement (.call nnn) := maskNNN _ _ _ rfl
theorem seImm (x : Reg) (nn : Byte) : Statement (.seImm x nn) := maskXNN _ _ _ _ rfl
theorem sneImm (x : Reg) (nn : Byte) : Statement (.sneImm x nn) := maskXNN _ _ _ _ rfl
theorem seReg (x y : Reg) : Statement (.seReg x y) := maskXY _ _ _ _ _ rfl
theorem ldImm (x : Reg) (nn : Byte) : Statement (.ldImm x nn) := maskXNN _ _ _ _ rfl
theorem addImm (x : Reg) (nn : Byte) : Statement (.addImm x nn) := maskXNN _ _ _ _ rfl
theorem ldReg (x y : Reg) : Statement (.ldReg x y) := maskXY _ _ _ _ _ rfl
theorem orReg (x y : Reg) : Statement (.orReg x y) := maskXY _ _ _ _ _ rfl
theorem andReg (x y : Reg) : Statement (.andReg x y) := maskXY _ _ _ _ _ rfl
theorem xorReg (x y : Reg) : Statement (.xorReg x y) := maskXY _ _ _ _ _ rfl
theorem addReg (x y : Reg) : Statement (.addReg x y) := maskXY _ _ _ _ _ rfl
theorem subReg (x y : Reg) : Statement (.subReg x y) := maskXY _ _ _ _ _ rfl
theorem shr (x y : Reg) : Statement (.shr x y) := maskXY _ _ _ _ _ rfl
theorem subnReg (x y : Reg) : Statement (.subnReg x y) := maskXY _ _ _ _ _ rfl
theorem shl (x y : Reg) : Statement (.shl x y) := maskXY _ _ _ _ _ rfl
theorem sneReg (x y : Reg) : Statement (.sneReg x y) := maskXY _ _ _ _ _ rfl
theorem ldI (nnn : Addr12) : Statement (.ldI nnn) := maskNNN _ _ _ rfl
theorem jpV0 (nnn : Addr12) : Statement (.jpV0 nnn) := maskNNN _ _ _ rfl
theorem rnd (x : Reg) (nn : Byte) : Statement (.rnd x nn) := maskXNN _ _ _ _ rfl
theorem drw (x y : Reg) (n : Nibble) : Statement (.drw x y n) := maskXYN _ _ _ _ _ rfl
theorem skp (x : Reg) : Statement (.skp x) := maskXfn _ _ _ _ rfl
theorem sknp (x : Reg) : Statement (.sknp x) := maskXfn _ _ _ _ rfl
theorem ldVxDt (x : Reg) : Statement (.ldVxDt x) := maskXfn _ _ _ _ rfl
theorem ldVxK (x : Reg) : Statement (.ldVxK x) := maskXfn _ _ _ _ rfl
theorem ldDtVx (x : Reg) : Statement (.ldDtVx x) := maskXfn _ _ _ _ rfl
theorem ldStVx (x : Reg) : Statement (.ldStVx x) := maskXfn _ _ _ _ rfl
theorem addIVx (x : Reg) : Statement (.addIVx x) := maskXfn _ _ _ _ rfl
theorem ldFVx (x : Reg) : Statement (.ldFVx x) := maskXfn _ _ _ _ rfl
theorem ldBVx (x : Reg) : Statement (.ldBVx x) := maskXfn _ _ _ _ rfl
theorem storeRegs (x : Reg) : Statement (.storeRegs x) := maskXfn _ _ _ _ rfl
theorem loadRegs (x : Reg) : Statement (.loadRegs x) := maskXfn _ _ _ _ rfl

end Sys2Proof.Laws.EncodesToRow
end

