-- ==== Sys2Proof/Laws/Step.lean ====
section
/-! SUPPORT. What a step can do, once: the inversion of the cycle, the step in terms of the cycle, and frames. -/

namespace Sys2Proof.Machine

/-- An instruction other than CXNN ignores RAND (R247). -/
theorem execute_of_ne_rnd (rand : Byte) {i : Instr} (h : ∀ x nn, i ≠ .rnd x nn) (s : State) : execute rand i s = exec i s := by
  cases i with
  | rnd x nn => exact absurd rfl (h x nn)
  | _ => rfl

/-- `exec` is `execute` with the free byte the counter names. -/
theorem execute_randByte (i : Instr) (s : State) : execute s.randByte i s = exec i s := by cases i <;> rfl

/-- Everything a cycle that answers can do (R89): a fetch out of range, an unrecognized word, or an instruction. -/
theorem cycle_cases {mode : Config.TimerMode} {rand : Byte} {s u : State} {r : StepResult}
    (h : cycle mode rand s = .next (u, r)) :
    s.halted = false ∧
      ((∃ a, fetch s = .error a ∧ (u, r) = faulted s .memoryOutOfRange a) ∨
        (∃ op, fetch s = .ok op ∧ decodeWord op = none ∧ (u, r) = faulted s .unknownOpcode op.toNat) ∨
        ∃ op i t, fetch s = .ok op ∧ decodeWord op = some i ∧ execute rand i s = .next t ∧ (u, r) = finish mode i s t) := by
  unfold cycle at h
  by_cases hh : s.halted = true
  · rw [if_pos hh] at h; cases h
  · rw [if_neg hh] at h
    refine ⟨by simpa using hh, ?_⟩
    cases hf : fetch s with
    | error a => rw [hf] at h; cases h; exact .inl ⟨a, rfl, rfl⟩
    | ok op =>
      rw [hf] at h
      simp only [runWord] at h
      cases hd : decodeWord op with
      | none => rw [hd] at h; cases h; exact .inr (.inl ⟨op, rfl, hd, rfl⟩)
      | some i =>
        rw [hd] at h
        cases he : execute rand i s with
        | next t => simp only [he] at h; cases h; exact .inr (.inr ⟨op, i, t, rfl, hd, he, rfl⟩)
        | fault f => simp only [he] at h; cases h
        | refused f => simp only [he] at h; cases h

/-- A step that answers is a cycle in the spec's timer mode that answers. -/
theorem step_eq_next {s u : State} : step s = .next u ↔ ∃ r, cycle timerMode s.randByte s = .next (u, r) := by
  unfold step stepIn
  constructor
  · intro h
    cases hc : cycle timerMode s.randByte s with
    | next p => obtain ⟨t, r⟩ := p; rw [hc] at h; cases h; exact ⟨r, rfl⟩
    | fault f => rw [hc] at h; cases h
    | refused f => rw [hc] at h; cases h
  · rintro ⟨r, h⟩; rw [h]

/-- A running core whose fetched word decodes runs that instruction. -/
theorem cycle_execute {mode : Config.TimerMode} {rand : Byte} {s t : State} {i : Instr} {op : Word} (hr : s.halted = false)
    (hf : fetch s = .ok op) (hd : decodeWord op = some i) (he : execute rand i s = .next t) :
    cycle mode rand s = .next (finish mode i s t) := by
  simp [cycle, hr, hf, runWord, hd, he]

/-- A running core whose fetch is in range fetches the word at pc. -/
theorem fetch_wordAtPc {s : State} (h : s.fetchable) : fetch s = .ok s.wordAtPc := by
  rw [fetch_eq, if_pos (show s.pc.toNat + 1 < 4096 from h), wordOfBytes_eq]; rfl

/-- A frame that allows more is weaker. -/
theorem UnchangedOutside.mono {p q : Part → Prop} {s t : State} (h : UnchangedOutside p s t) (hpq : ∀ x, p x → q x) :
    UnchangedOutside q s t := fun x hx => h x fun hp => hx (hpq x hp)

/-- Frames compose. -/
theorem UnchangedOutside.trans {p : Part → Prop} {s t u : State} (h : UnchangedOutside p s t) (h' : UnchangedOutside p t u) :
    UnchangedOutside p s u := by
  intro x hx
  have a := h x hx
  have b := h' x hx
  cases x <;> exact Eq.trans b a

theorem UnchangedOutside.refl (p : Part → Prop) (s : State) : UnchangedOutside p s s := by
  intro x _; cases x <;> rfl

/-- Raising a fault latches it and changes nothing else (R231). -/
theorem raise_latched (s : State) (k : FaultKind) (n : Nat) : FaultLatched k.code.toNat n s (s.raise k n) := by
  refine ⟨rfl, by cases k <;> rfl, rfl, fun p hp => ?_⟩
  cases p <;> first | rfl | (exfalso; apply hp; simp [latchPart])

end Sys2Proof.Machine
end

