-- ==== Sys2Proof/Tests/Slice0.lean ====
section
/-! SUPPORT. Tests: the well-formedness smoke test, the words of spec/30_encoding.md R62 and R63 written out by hand, one or two
steps per instruction with the results of spec/95_test_vectors.md (each names its vector there), and for every statement of
Certificates/Slice0/Obligations.lean with hypotheses a witness that meets them, at the boundaries of its clauses. -/

namespace Sys2Proof.Tests

open Sys2Proof.Machine

/-! ## Helpers -/

/-- Read something off the next state, if there is one. -/
def ask {α : Type} (f : State → α) : Result → Option α
  | .next t => some (f t)
  | .fault _ => none
  | .refused _ => none

/-- One step of a state whose next word is `w`, and what `f` reads after it. -/
def after {α : Type} (s : State) (w : Nat) (f : State → α) : Option α := ask f (step (s.withFetchWord 16 w))

/-- The latch after a step: HALTED, FAULT_CODE, FAULT_INFO, and pc. -/
def latch (t : State) : Bool × Nat × Nat × Nat := (t.halted, t.faultCode.toNat, t.faultInfo.toNat, t.pc.toNat)

/-- The result a cycle returns, if it answers. -/
def resultIn (mode : Config.TimerMode) (s : State) : Option StepResult :=
  match cycle mode 0 s with
  | .next (_, r) => some r
  | .fault _ => none
  | .refused _ => none

/-- The state a meaning or step answers, or the given one. -/
def stateOr (s : State) : Result → State
  | .next t => t
  | .fault _ => s
  | .refused _ => s

/-- The reset state with two registers set. -/
def regs2 (x : Reg) (a : Byte) (y : Reg) (b : Byte) : State := (State.reset.setReg x a).setReg y b

/-- The reset state at another pc. -/
def atPc (pc : Word) : State := State.reset.setPc pc

/-- The reset state with another I. -/
def atI (i : Word) : State := State.reset.setI i

/-- The reset state with sp entries on the stack. -/
def atSp (sp : Fin 17) : State := { State.reset with sp := sp }

/-- The reset state with some keys down. -/
def withKeys (ks : List (Fin 16)) : State := { State.reset with key := Vector.ofFn fun k => ks.contains k }

/-! ## Well-formedness smoke test (R61): a value too large for its field is refused, the largest that fits is not -/

theorem test_field_x_fits : fieldFits 4 15 = true ∧ fieldFits 4 16 = false := by decide
theorem test_field_nn_fits : fieldFits 8 255 = true ∧ fieldFits 8 256 = false := by decide
theorem test_field_nnn_fits : fieldFits 12 4095 = true ∧ fieldFits 12 4096 = false := by decide
theorem test_instr_fields : (Instr.drw 15 15 15).operandFields = [(4, 15), (4, 15), (4, 15)] ∧
    (Instr.ldImm 15 255).operandFields = [(4, 15), (8, 255)] ∧ (Instr.jp 4095).operandFields = [(12, 4095)] := by decide

/-! ## Decoding: words written out from R62 and R63 -/

theorem test_decode_control : decodeWord 0x00EE = some .ret ∧ decodeWord 0x1ABC = some (.jp 0xABC) ∧
    decodeWord 0x2DEF = some (.call 0xDEF) ∧ decodeWord 0xB123 = some (.jpV0 0x123) := by decide
theorem test_decode_skip : decodeWord 0x3A5C = some (.seImm 0xA 0x5C) ∧ decodeWord 0x4B6D = some (.sneImm 0xB 0x6D) ∧
    decodeWord 0x5120 = some (.seReg 1 2) ∧ decodeWord 0x9AB0 = some (.sneReg 0xA 0xB) := by decide
theorem test_decode_loads : decodeWord 0x6FAB = some (.ldImm 0xF 0xAB) ∧ decodeWord 0x70FF = some (.addImm 0 0xFF) ∧
    decodeWord 0xC30F = some (.rnd 3 0x0F) := by decide
theorem test_decode_alu : decodeWord 0x8120 = some (.ldReg 1 2) ∧ decodeWord 0x8341 = some (.orReg 3 4) ∧
    decodeWord 0x8562 = some (.andReg 5 6) ∧ decodeWord 0x8783 = some (.xorReg 7 8) ∧
    decodeWord 0x89A4 = some (.addReg 9 0xA) ∧ decodeWord 0x8BC5 = some (.subReg 0xB 0xC) ∧
    decodeWord 0x8236 = some (.shr 2 3) ∧ decodeWord 0x8DE7 = some (.subnReg 0xD 0xE) ∧
    decodeWord 0x823E = some (.shl 2 3) := by decide
theorem test_decode_index : decodeWord 0xA300 = some (.ldI 0x300) ∧ decodeWord 0xF21E = some (.addIVx 2) ∧
    decodeWord 0xF029 = some (.ldFVx 0) ∧ decodeWord 0xF333 = some (.ldBVx 3) ∧ decodeWord 0xF155 = some (.storeRegs 1) ∧
    decodeWord 0xF265 = some (.loadRegs 2) := by decide
theorem test_decode_display : decodeWord 0x00E0 = some .cls ∧ decodeWord 0xD12F = some (.drw 1 2 0xF) := by decide
theorem test_decode_keypad_timers : decodeWord 0xE19E = some (.skp 1) ∧ decodeWord 0xE2A1 = some (.sknp 2) ∧
    decodeWord 0xF107 = some (.ldVxDt 1) ∧ decodeWord 0xF30A = some (.ldVxK 3) ∧ decodeWord 0xF015 = some (.ldDtVx 0) ∧
    decodeWord 0xF418 = some (.ldStVx 4) := by decide

/-- The unrecognized words of vectors S5 to S14. -/
theorem test_decode_unrecognized :
    ([0x0000, 0x0123, 0x00E1, 0x5121, 0x9AB3, 0x8128, 0x812F, 0xE19F, 0xF030, 0xFFFF] : List Word).all
      (fun w => decodeWord w == none) = true := by decide

/-- The encoder gives the words back. -/
theorem test_encode : encode (.drw 1 2 0xF) = 0xD12F ∧ encode (.call 0xDEF) = 0x2DEF ∧ encode (.shl 2 3) = 0x823E ∧
    encode (.sknp 2) = 0xE2A1 ∧ encode .ret = 0x00EE := by decide

/-- Bytes in memory order, big-endian (R45), one instruction taken and the rest left. -/
theorem test_decode_bytes : decode [0xA3, 0x00, 0xF3] = .ok (.ldI 0x300, [0xF3]) ∧ decode [0xA3] = .error .tooShort ∧
    decode [0x00, 0xE1] = .error (.unknownOpcode 0x00E1) := by decide

/-- The host's question: the word of the table, and a word that does not fit its bits. -/
theorem test_decode_table_word : decodeTableWord 16 0x1234 = some (.jp 0x234) ∧ decodeTableWord 16 0x11234 = none := by decide

/-! ## The step (vectors S1 to S21) -/

theorem test_S1_last_word : after (atPc 0xFFE) 0x6042 (fun t => (t.reg 0, t.pc)) = some (0x42, 0x1000) := by decide
theorem test_S2_S3_S4_fetch_faults : ask latch (step (atPc 0x1000)) = some (true, 4, 0x1000, 0x1000) ∧
    ask latch (step (atPc 0xFFF)) = some (true, 4, 0x1000, 0xFFF) ∧
    ask latch (step (atPc 0x10FE)) = some (true, 4, 0x10FE, 0x10FE) := by decide
theorem test_S5_S14_unknown_opcode : ask latch (step State.reset) = some (true, 1, 0, 0x200) ∧
    after State.reset 0xFFFF latch = some (true, 1, 0xFFFF, 0x200) := by decide
theorem test_S15_S16_decay : after { State.reset with dt := 5, st := 3 } 0x0000 (fun t => (t.dt, t.st)) = some (5, 3) ∧
    after { State.reset with dt := 5, st := 3 } 0x6000 (fun t => (t.dt, t.st)) = some (4, 2) := by decide
theorem test_S17_halted : step (State.reset.raise .unknownOpcode 0) = .fault (.halted 1 0) ∧
    hostOp .perInstruction (.step 0xA7) (State.reset.raise .unknownOpcode 0) =
      .next (State.reset.raise .unknownOpcode 0, .stepped (.fault 1)) := ⟨rfl, rfl⟩
theorem test_S20_S21_external_tick :
    ask (fun t => (t.dt, (hostTick t).dt)) (stepIn .externalTick 0 ({ State.reset with dt := 5 }.withFetchWord 16 0x6000)) =
      some (5, 4) := by decide

/-! ## Control (vectors C-1 to C-12) -/

theorem test_C1_C3_jp : after State.reset 0x1234 (·.pc) = some 0x234 ∧ after State.reset 0x1FFF (·.pc) = some 0xFFF := by decide
theorem test_C4_C5_call :
    after (atPc 0x204) 0x2210 (fun t => (t.stack[(0 : Fin 16)], t.sp, t.pc)) = some (0x206, 1, 0x210) ∧
    after (atSp 15) 0x2300 (fun t => (t.stack[(15 : Fin 16)], t.sp, t.pc)) = some (0x202, 16, 0x300) := by decide
theorem test_C6_call_overflow : after (atSp 16) 0x2300 (fun t => (latch t, t.sp)) = some ((true, 2, 0x2300, 0x200), 16) := by
  decide
theorem test_C7_ret :
    after { atPc 0x212 with sp := 1, stack := (Vector.replicate 16 0).set 0 0x206 } 0x00EE
      (fun t => (t.sp, t.pc, t.stack[(0 : Fin 16)])) = some (0, 0x206, 0x206) := by decide
theorem test_C8_ret_underflow : after State.reset 0x00EE (fun t => (latch t, t.sp)) = some ((true, 3, 0xEE, 0x200), 0) := by
  decide
theorem test_C11_C12_jp_v0 : after (State.reset.setReg 0 0xFF) 0xBFFF (·.pc) = some 0x10FE ∧
    after (regs2 0 0x01 5 0x80) 0xB500 (·.pc) = some 0x501 := by decide

/-! ## Skips (vectors K-1 to K-10) -/

theorem test_K1_K2_se_imm : after (State.reset.setReg 0 5) 0x3005 (·.pc) = some 0x204 ∧
    after (State.reset.setReg 0 4) 0x3005 (·.pc) = some 0x202 := by decide
theorem test_K4_K5_sne_imm : after (State.reset.setReg 3 0x10) 0x4311 (·.pc) = some 0x204 ∧
    after (State.reset.setReg 3 0x11) 0x4311 (·.pc) = some 0x202 := by decide
theorem test_K6_K7_se_reg : after (regs2 1 0x7F 2 0x7F) 0x5120 (·.pc) = some 0x204 ∧
    after (regs2 1 1 2 2) 0x5120 (·.pc) = some 0x202 := by decide
theorem test_K9_K10_sne_reg : after (regs2 1 1 2 2) 0x9120 (·.pc) = some 0x204 ∧
    after (regs2 1 1 2 2) 0x9110 (·.pc) = some 0x202 := by decide

/-! ## Loads and ALU (vectors A-1 to A-31) -/

theorem test_A1_ld_imm : after State.reset 0x6FAB (fun t => (t.reg 15, t.pc)) = some (0xAB, 0x202) := by decide
theorem test_A2_A3_add_imm : after (State.reset.setReg 0 0xFF) 0x7001 (fun t => (t.reg 0, t.reg 15)) = some (0, 0) ∧
    after (State.reset.setReg 15 0xFF) 0x7F01 (·.reg 15) = some 0 := by decide
theorem test_A4_ld_reg : after (State.reset.setReg 1 0x33) 0x8010 (·.reg 0) = some 0x33 := by decide
theorem test_A5_or : after ((regs2 0 0x0C 1 0x0A).setReg 15 0x55) 0x8011 (fun t => (t.reg 0, t.reg 15)) = some (0x0E, 0x55) := by
  decide
theorem test_A6_and : after ((regs2 0 0x0C 1 0x0A).setReg 15 0x55) 0x8012 (fun t => (t.reg 0, t.reg 15)) = some (0x08, 0x55) := by
  decide
theorem test_A7_A8_xor :
    after ((regs2 0 0x0C 1 0x0A).setReg 15 0x55) 0x8013 (fun t => (t.reg 0, t.reg 15)) = some (0x06, 0x55) ∧
    after (State.reset.setReg 0 0x5A) 0x8003 (·.reg 0) = some 0 := by decide
theorem test_A9_A11_add : after (regs2 0 0xC8 1 0x64) 0x8014 (fun t => (t.reg 0, t.reg 15)) = some (0x2C, 1) ∧
    after (State.reset.setReg 0 0x80) 0x8004 (fun t => (t.reg 0, t.reg 15)) = some (0, 1) := by decide
theorem test_A12_A13_add_vf : after (regs2 15 0x10 1 0xF5) 0x8F14 (·.reg 15) = some 1 ∧
    after (regs2 15 0x02 0 0x03) 0x80F4 (fun t => (t.reg 0, t.reg 15)) = some (5, 0) := by decide
theorem test_A14_A15_sub : after (regs2 0 5 1 7) 0x8015 (fun t => (t.reg 0, t.reg 15)) = some (0xFE, 0) ∧
    after (regs2 0 5 1 5) 0x8015 (fun t => (t.reg 0, t.reg 15)) = some (0, 1) := by decide
theorem test_A17_sub_vf : after (regs2 15 3 1 5) 0x8F15 (·.reg 15) = some 0 := by decide
theorem test_A18_A20_shr : after (State.reset.setReg 2 5) 0x8236 (fun t => (t.reg 2, t.reg 15)) = some (2, 1) ∧
    after (regs2 0 4 5 0xFF) 0x8056 (fun t => (t.reg 0, t.reg 15)) = some (2, 0) := by decide
theorem test_A21_shr_vf : after (State.reset.setReg 15 3) 0x8F06 (·.reg 15) = some 1 := by decide
theorem test_A22_A23_subn : after (regs2 0 5 1 7) 0x8017 (fun t => (t.reg 0, t.reg 15)) = some (2, 1) ∧
    after (regs2 0 7 1 5) 0x8017 (fun t => (t.reg 0, t.reg 15)) = some (0xFE, 0) := by decide
theorem test_A25_A26_shl : after (State.reset.setReg 2 0x81) 0x823E (fun t => (t.reg 2, t.reg 15)) = some (2, 1) ∧
    after (State.reset.setReg 0 0x7F) 0x800E (fun t => (t.reg 0, t.reg 15)) = some (0xFE, 0) := by decide
theorem test_A27_A28_shl_vf : after (State.reset.setReg 15 0x80) 0x8F0E (·.reg 15) = some 1 ∧
    after (State.reset.setReg 15 0x40) 0x8F0E (·.reg 15) = some 0 := by decide
/-- A-29, A-30 and A-31: the host's STEP supplies RAND = 0xA7. -/
theorem test_A29_A31_rnd :
    ask (·.reg 3) (stepIn .perInstruction 0xA7 (State.reset.withFetchWord 16 0xC30F)) = some 0x07 ∧
    ask (·.reg 0) (stepIn .perInstruction 0xA7 (State.reset.withFetchWord 16 0xC0FF)) = some 0xA7 ∧
    ask (·.reg 0) (stepIn .perInstruction 0xA7 (State.reset.withFetchWord 16 0xC000)) = some 0x00 := by decide
/-- In `step`, which is supplied no byte, it is the free one. -/
theorem test_rnd_free_byte : after State.reset 0xC0FF (fun t => (t.reg 0, t.draws)) = some (Config.rand 0 &&& 0xFF, 1) := rfl

/-! ## Index and memory (vectors M-1 to M-25) -/

theorem test_M1_ld_i : after State.reset 0xAFFF (·.i) = some 0xFFF := by decide
theorem test_M2_M3_add_i : after ((atI 0xFFE).setReg 2 3) 0xF21E (fun t => (t.i, t.reg 15)) = some (0x1001, 1) ∧
    after (atI 0xFFF) 0xF01E (fun t => (t.i, t.reg 15)) = some (0xFFF, 0) := by decide
theorem test_M6_M7_add_i_vf : after ((atI 0xFFF).setReg 15 1) 0xFF1E (fun t => (t.i, t.reg 15)) = some (0x1000, 1) ∧
    after ((atI 0xFFFF).setReg 0 2) 0xF01E (fun t => (t.i, t.reg 15)) = some (0x0001, 0) := by decide
theorem test_M8_M10_ld_f : after (State.reset.setReg 0 0x0F) 0xF029 (·.i) = some 0x04B ∧
    after (State.reset.setReg 0 0xFF) 0xF029 (·.i) = some 0x4FB := by decide
theorem test_E1_ld_b : after ((atI 0x300).setReg 3 157) 0xF333
    (fun t => (t.readMem 0x300, t.readMem 0x301, t.readMem 0x302, t.i)) = some (1, 5, 7, 0x300) := by decide
theorem test_M14_M15_ld_b_edge : after ((atI 0xFFD).setReg 0 0x7B) 0xF033 (·.readMem 0xFFF) = some 3 ∧
    after ((atI 0xFFE).setReg 0 0x7B) 0xF033 (fun t => (latch t, t.readMem 0xFFE)) = some ((true, 4, 0x1000, 0x200), 0) := by
  decide
theorem test_M17_store : after ((atI 0x400).setReg 0 0xAA) 0xF055 (fun t => (t.readMem 0x400, t.i)) = some (0xAA, 0x401) := by
  decide
theorem test_M18_M19_store_edge :
    after ((atI 0xFF0).setReg 15 0x0F) 0xFF55 (fun t => (t.readMem 0xFFF, t.i)) = some (0x0F, 0x1000) ∧
    after (atI 0xFF1) 0xFF55 (fun t => (latch t, t.i)) = some ((true, 4, 0x1000, 0x200), 0xFF1) := by decide
theorem test_M22_load : after ((atI 0x300).writeBytes 0x300 [1, 5, 7]) 0xF265
    (fun t => (t.reg 0, t.reg 1, t.reg 2, t.i)) = some (1, 5, 7, 0x303) := by decide
theorem test_M24_load_edge : after (atI 0xFFF) 0xF165 (fun t => (latch t, t.i)) = some ((true, 4, 0x1000, 0x200), 0xFFF) := by
  decide

/-! ## Display (vectors D-1 to D-14) -/

theorem test_E3_cls : after { State.reset with fb := BitVec.allOnes 2048, dirty := true } 0x00E0
    (fun t => (t.fb, t.dirty, t.pc)) = some (0, true, 0x202) := by decide +kernel
/-- D-14: row 0 of a sprite F0 over the set cell (0,0). -/
theorem test_D14_draw_collides : after { State.reset with fb := 1, mem := [(0x300, 0xF0)], i := 0x300 } 0xD011
    (fun t => (t.fb, t.reg 15, t.dirty)) = some (0xE, 1, true) := by decide +kernel
/-- D-9 and D-10: the last cell, and a set bit in column 64. -/
theorem test_D9_D10_draw_edge :
    after { regs2 0 63 1 31 with mem := [(0x300, 0x80)], i := 0x300 } 0xD011 (fun t => (t.cell 2047, t.reg 15)) =
      some (true, 0) ∧
    after { regs2 0 57 1 0 with mem := [(0x300, 0x01)], i := 0x300 } 0xD011 (fun t => (latch t, t.fb, t.dirty)) =
      some ((true, 6, 0x400000, 0x200), 0, false) := by decide +kernel

/-! ## Keypad and timers (vectors T-1 to T-17) -/

theorem test_T1_T2_skp : after ((withKeys [7]).setReg 1 7) 0xE19E (·.pc) = some 0x204 ∧
    after (State.reset.setReg 1 7) 0xE19E (·.pc) = some 0x202 := by decide
theorem test_T5_skp_bad_key : after (State.reset.setReg 0 0x10) 0xE09E latch = some (true, 5, 0x10, 0x200) := by decide
theorem test_T3_T4_sknp : after ((withKeys [7]).setReg 1 7) 0xE1A1 (·.pc) = some 0x202 ∧
    after (State.reset.setReg 1 7) 0xE1A1 (·.pc) = some 0x204 := by decide
theorem test_T6_sknp_bad_key : after (State.reset.setReg 0 0xFF) 0xE0A1 latch = some (true, 5, 0xFF, 0x200) := by decide
theorem test_T7_ld_dt : after { State.reset with dt := 9 } 0xF107 (fun t => (t.reg 1, t.dt)) = some (9, 8) := by decide
theorem test_T9_key_blocks :
    after { State.reset with dt := 5, st := 5 } 0xF30A (fun t => (t.pc, t.reg 3, t.dt, t.st)) = some (0x200, 0, 5, 5) ∧
    resultIn .perInstruction (State.reset.withFetchWord 16 0xF30A) = some .blocked := by decide
theorem test_T10_key_lowest :
    after { withKeys [7, 9] with dt := 5 } 0xF30A (fun t => (t.reg 3, t.pc, t.dt)) = some (7, 0x202, 4) := by decide
theorem test_T13_T14_set_dt : after (State.reset.setReg 0 0x0A) 0xF015 (·.dt) = some 9 ∧
    after { State.reset with dt := 7 } 0xF015 (·.dt) = some 0 := by decide
theorem test_T15_T16_set_st : after (State.reset.setReg 0 0xFF) 0xF018 (·.st) = some 0xFE ∧
    after (State.reset.setReg 4 1) 0xF418 (·.st) = some 0 := by decide

/-! ## Host operations (vectors H-1 to H-7) -/

theorem test_H1_init : hostOp .perInstruction .init (State.reset.raise .stackUnderflow 0xEE) = .next (State.reset, .nothing) :=
  rfl
theorem test_H2_load : (hostLoad [0x12, 0x00] State.reset).2 = .ok ∧
    (hostLoad [0x12, 0x00] State.reset).1.readMem 0x200 = 0x12 := by decide
theorem test_H5_present : hostOp .perInstruction .present { State.reset with fb := 3, dirty := true } =
    .next ({ State.reset with fb := 3 }, .cells 3) := rfl
theorem test_tick_refused : hostOp .perInstruction .tick State.reset = .refused .tickNotAvailable := rfl

/-! ## Witnesses: for each statement with hypotheses, a concrete state and operands that meet them, clause by clause -/

theorem witness_DecodeOfEncodeIsIdentity : (Instr.drw 15 15 15).wellFormed = true ∧ (Instr.jp 4095).wellFormed = true := by decide

theorem witness_EncodeOfDecodedIsTheWord : decodeWord 0xDFFF = some (.drw 15 15 15) := by decide

/-- One word for each of the three clauses: the last row, a row with a fixed low nibble, and the row read twice. -/
theorem witness_OpcodeMapDecidesDecoding : decodeWord 0xFF65 = some (.loadRegs 15) ∧
    (⟨0x9000, 0xF00F⟩ : OpRow) ∈ opcodeMap ∧ (⟨0x9000, 0xF00F⟩ : OpRow).holds 0x9FF0 = true := by decide

theorem witness_DecodeReadsTwoBytesBigEndian : decodeWord (u16 (256 * 0x00 + 0xE0)) = some .cls ∧
    decodeWord (u16 (256 * 0x00 + 0xE1)) = none := by decide

/-- A running core at the last fetchable address, 0xFFE. -/
def atEnd (w : Nat) : State := (atPc 0xFFE).withFetchWord 16 w

theorem witness_StepRunsTheDecodedInstruction : (atEnd 0x6042).running ∧ (atEnd 0x6042).fetchable ∧
    decodeWord (atEnd 0x6042).wordAtPc = some (.ldImm 0 0x42) ∧
    exec (.ldImm 0 0x42) (atEnd 0x6042) = .next (stateOr State.reset (exec (.ldImm 0 0x42) (atEnd 0x6042))) ∧
    execute 0xA7 (.ldImm 0 0x42) (atEnd 0x6042) = .next (stateOr State.reset (exec (.ldImm 0 0x42) (atEnd 0x6042))) ∧
    ∀ x nn, Instr.ldImm 0 0x42 ≠ .rnd x nn :=
  ⟨by decide, by decide, by decide, rfl, rfl, by intro x nn h; cases h⟩

theorem witness_FetchReadsTheWordOrFaults : (atPc 0xFFE).pc.toNat + 1 < 4096 ∧
    ((atPc 0xFFF).running ∧ 4096 ≤ (atPc 0xFFF).pc.toNat + 1 ∧ (atPc 0xFFF).pc.toNat < 4096) ∧
    (atPc 0x1000).running ∧ 4096 ≤ (atPc 0x1000).pc.toNat + 1 ∧ ¬ (atPc 0x1000).pc.toNat < 4096 := by decide

theorem witness_UnrecognizedWordFaults : (atEnd 0xFFFF).running ∧ (atEnd 0xFFFF).fetchable ∧
    ∀ r ∈ opcodeMap, r.holds (atEnd 0xFFFF).wordAtPc = false := by decide

theorem witness_PlacedWordIsFetched : (atPc 0xFFE).mem.wf ∧ (atPc 0xFFE).fetchable ∧ 65535 < 65536 := by decide

/-- A halted core. -/
def halted : State := State.reset.raise .unknownOpcode 0

theorem witness_HaltedStepReturnsTheLatchedFault : halted.halted = true := by decide

theorem witness_RunningCoreAlwaysSteps : State.reset.running := by decide

/-- The state of a cycle's answer, in a timer mode, with RAND = 0xA7. -/
def cycled (mode : Config.TimerMode) (s : State) : State := stateOr s (stepIn mode 0xA7 s)

/-- A completed step in each mode, and a blocked one. -/
theorem witness_CompletedStepDecaysTimers :
    cycle .perInstruction 0xA7 (atEnd 0x6042) = .next (cycled .perInstruction (atEnd 0x6042), .completed) ∧
    cycle .externalTick 0xA7 (atEnd 0x6042) = .next (cycled .externalTick (atEnd 0x6042), .completed) ∧
    cycle .perInstruction 0xA7 (atEnd 0xF30A) = .next (cycled .perInstruction (atEnd 0xF30A), .blocked) :=
  ⟨rfl, rfl, rfl⟩

theorem witness_OnlyWaitForKeyBlocks :
    cycle .perInstruction 0xA7 (atEnd 0xF30A) = .next (cycled .perInstruction (atEnd 0xF30A), .blocked) ∧
    (atEnd 0xF30A).running ∧ (atEnd 0xF30A).fetchable ∧ decodeWord (atEnd 0xF30A).wordAtPc = some (.ldVxK 3) ∧
    ∀ k, (atEnd 0xF30A).keyDown k = false :=
  ⟨rfl, by decide, by decide, by decide, by decide⟩

theorem witness_FaultStepChangesOnlyTheLatch :
    cycle .perInstruction 0xA7 State.reset = .next (cycled .perInstruction State.reset, .fault 1) := rfl

theorem witness_OnlyFaultsWriteTheLatch :
    cycle .perInstruction 0xA7 (atEnd 0x6042) = .next (cycled .perInstruction (atEnd 0x6042), .completed) ∧
    ∀ code, StepResult.completed ≠ .fault code :=
  ⟨rfl, by intro code h; cases h⟩

/-- The invariant at the last fetchable pc, and the step from there in both modes. -/
theorem witness_StepKeepsTheInvariant : (atEnd 0x6042).Inv ∧ step (atEnd 0x6042) = .next (cycled timerMode (atEnd 0x6042)) ∧
    stepIn .externalTick 0xA7 (atEnd 0x6042) = .next (cycled .externalTick (atEnd 0x6042)) :=
  ⟨by decide, rfl, rfl⟩

theorem witness_HostOperationsKeepTheInvariant : (atEnd 0x6042).Inv ∧
    hostOp .externalTick .tick (atEnd 0x6042) = .next (hostTick (atEnd 0x6042), .nothing) :=
  ⟨by decide, rfl⟩

theorem witness_OnlyInitLeavesTheHaltedState : halted.halted = true ∧
    hostOp .perInstruction (.step 0xA7) halted = .next (halted, .stepped (.fault 1)) ∧ HostOp.step 0xA7 ≠ .init :=
  ⟨by decide, rfl, by decide⟩

/-- What an instruction answers from reset, with RAND = 0xA7. -/
def fromReset (i : Instr) : State := stateOr State.reset (execute 0xA7 i State.reset)

theorem witness_OnlyFlagInstructionsWriteVF :
    (execute 0xA7 (.ldImm 14 7) State.reset = .next (fromReset (.ldImm 14 7)) ∧ writesFlag (.ldImm 14 7) = false ∧
      writesVFAsData (.ldImm 14 7) = false) ∧
    execute 0xA7 (.addIVx 0) State.reset = .next (fromReset (.addIVx 0)) ∧ State.reset.running ∧ (fromReset (.addIVx 0)).running ∧
      writesFlag (.addIVx 0) = true :=
  ⟨⟨rfl, by decide, by decide⟩, rfl, by decide, by decide, by decide⟩

theorem witness_OnlyTheirInstructionsWriteIndexAndStack :
    (execute 0xA7 .cls State.reset = .next (fromReset .cls) ∧ writesIndex .cls = false) ∧
    execute 0xA7 (.call 0x300) State.reset = .next (fromReset (.call 0x300)) ∧ (fromReset (.call 0x300)).sp ≠ State.reset.sp ∧
      (fromReset (.call 0x300)).stack ≠ State.reset.stack :=
  ⟨⟨rfl, by decide⟩, rfl, by decide, by decide⟩

theorem witness_OnlyDisplayInstructionsWriteTheScreen :
    execute 0xA7 .cls State.reset = .next (fromReset .cls) ∧ (fromReset .cls).dirty ≠ State.reset.dirty :=
  ⟨rfl, by decide⟩

theorem witness_OnlyTheirInstructionsWriteMemoryAndTimers :
    (execute 0xA7 (.storeRegs 0) State.reset = .next (fromReset (.storeRegs 0)) ∧
      (fromReset (.storeRegs 0)).mem ≠ State.reset.mem) ∧
    (execute 0xA7 (.ldDtVx 1) (State.reset.setReg 1 9) = .next (stateOr State.reset (execute 0xA7 (.ldDtVx 1) (State.reset.setReg 1 9))) ∧
      (stateOr State.reset (execute 0xA7 (.ldDtVx 1) (State.reset.setReg 1 9))).dt ≠ (State.reset.setReg 1 9).dt) ∧
    (execute 0xA7 (.ldStVx 1) (State.reset.setReg 1 9) = .next (stateOr State.reset (execute 0xA7 (.ldStVx 1) (State.reset.setReg 1 9))) ∧
      (stateOr State.reset (execute 0xA7 (.ldStVx 1) (State.reset.setReg 1 9))).st ≠ (State.reset.setReg 1 9).st) :=
  ⟨⟨rfl, by decide⟩, ⟨rfl, by decide⟩, rfl, by decide⟩

theorem witness_ReturnPopsTheStack : (0 < (atSp 1).sp.val ∧ (0 : Fin 16).val = (atSp 1).sp.val - 1) ∧
    (0 < (atSp 16).sp.val ∧ (15 : Fin 16).val = (atSp 16).sp.val - 1) ∧ (atSp 0).sp.val = 0 := by decide

theorem witness_JumpSetsPc : (0xFFF : Addr12).toNat = 0xFFF := by decide

theorem witness_CallPushesTheReturnAddress : (0 : Fin 16).val = (atSp 0).sp.val ∧ (15 : Fin 16).val = (atSp 15).sp.val ∧
    (atSp 16).sp.val = 16 := by decide

theorem witness_JumpWithOffsetAddsV0 : 0xFFF ≤ (0xF00 : Addr12).toNat + ((State.reset.setReg 0 0xFF).reg 0).toNat := by decide

theorem witness_SkipsOnRegisters : (0 < 1 ∧ 1 < 16) ∧ 0 < 15 ∧ 15 < 16 := by decide

/-- The boundary bits, 0 and 7, of the bitwise statements. -/
theorem witness_BitwiseOperationsKeepVF : 0 < 8 ∧ 7 < 8 := by decide

/-- X other than F, of the statements whose destination may be VF. -/
theorem witness_AddSetsCarry : (14 : Reg) ≠ regF := by decide
theorem witness_SubtractSetsNoBorrow : (14 : Reg) ≠ regF := by decide
theorem witness_ReverseSubtractSetsNoBorrow : (0 : Reg) ≠ regF := by decide
theorem witness_ShiftRightIgnoresVy : (14 : Reg) ≠ regF := by decide
theorem witness_ShiftLeftIgnoresVy : (0 : Reg) ≠ regF := by decide

theorem witness_RandomByteIsMasked : 7 < 8 ∧ (0 : Byte) = 0 ∧ (255 : Byte) = 0xFF := by decide

theorem witness_StoreDecimalDigits : ((atI 0xFFD).mem.wf ∧ (atI 0xFFD).i.toNat + 2 < 4096) ∧
    4096 ≤ (atI 0xFFE).i.toNat + 2 := by decide

theorem witness_StoreRegistersAtIndex :
    ((atI 0xFF0).mem.wf ∧ (atI 0xFF0).i.toNat + (15 : Reg).val < 4096 ∧ (15 : Reg).val ≤ (15 : Reg).val) ∧
    4096 ≤ (atI 0xFF1).i.toNat + (15 : Reg).val := by decide

theorem witness_LoadRegistersFromIndex :
    ((atI 0xFFF).i.toNat + (0 : Reg).val < 4096 ∧ (0 : Reg).val ≤ (0 : Reg).val) ∧
    4096 ≤ (atI 0xFFF).i.toNat + (1 : Reg).val := by decide

/-- FX55 at 0x400 with X = 1, then FX65 from the state with I set back and V0 cleared. -/
def storeStart : State := { regs2 0 0x11 1 0x22 with i := 0x400 }
/-- The state after that FX55. -/
def stored : State := stateOr State.reset (exec (.storeRegs 1) storeStart)
/-- I set back and V0 cleared. -/
def restored : State := (stored.setI 0x400).setReg 0 0

theorem witness_StoreThenLoadRoundTrips : storeStart.mem.wf ∧ storeStart.i.toNat + (1 : Reg).val < 4096 ∧
    exec (.storeRegs 1) storeStart = .next stored ∧ restored.mem = stored.mem ∧ restored.i = storeStart.i ∧
    exec (.loadRegs 1) restored = .next (stateOr State.reset (exec (.loadRegs 1) restored)) :=
  ⟨by decide, by decide, rfl, rfl, rfl, rfl⟩

theorem witness_StoreIsSeenByTheNextFetch : (atI 0x202).mem.wf ∧ (atI 0x202).i.toNat = (atI 0x202).pc.toNat + 2 ∧
    1 ≤ (1 : Reg).val ∧ (atI 0x202).i.toNat + (1 : Reg).val < 4096 ∧
    exec (.storeRegs 1) (atI 0x202) = .next (stateOr State.reset (exec (.storeRegs 1) (atI 0x202))) :=
  ⟨by decide, by decide, by decide, by decide, rfl⟩

theorem witness_ClearScreenZeroesEveryCell : 2047 < 2048 := by decide

/-- A one-byte sprite at 0xFFF, drawn at (V0, V1) by DRW V0, V1, 1. -/
def sprite (b x y : Byte) : State := { regs2 0 x 1 y with i := 0xFFF, mem := [(0xFFF, b)] }

/-- The off-grid clauses speak of every row and column; only the sprite's own rows and columns can have a set bit. -/
theorem not_bitOffGrid (s : State) (x y : Reg) (n : Nibble)
    (h : ∀ r < n.toNat, ∀ c < 8, (s.readMem (s.i.toNat + r)).getLsbD (7 - c) = true →
      (s.reg x).toNat + c < 64 ∧ (s.reg y).toNat + r < 32) (r c : Nat) : ¬ bitOffGrid s x y n r c := by
  rintro ⟨⟨hr, hc, hb⟩, hoff⟩
  have := h r hr c hc hb
  omega

/-- A sprite on the last cell, (63, 31): on the grid, the cell covered, its neighbour not, and the cell clear or set. -/
theorem witness_DrawXorsTheSprite_completes :
    ((1 : Nibble).toNat = 0 ∨ (sprite 0x80 63 31).i.toNat + (1 : Nibble).toNat ≤ 4096) ∧
    (∀ r c, ¬ bitOffGrid (sprite 0x80 63 31) 0 1 1 r c) ∧
    covers (sprite 0x80 63 31) 0 1 1 63 31 ∧ ¬ covers (sprite 0x80 63 31) 0 1 1 62 31 ∧
    (sprite 0x80 63 31).cell (63 + 64 * 31) = false ∧
    covers { sprite 0x80 63 31 with fb := BitVec.twoPow 2048 2047 } 0 1 1 63 31 ∧
    State.cell { sprite 0x80 63 31 with fb := BitVec.twoPow 2048 2047 } (63 + 64 * 31) = true := by
  refine ⟨by decide, not_bitOffGrid _ _ _ _ (by decide), ⟨0, 0, ⟨by decide, by decide, by decide⟩, rfl, rfl⟩, ?_,
    by decide +kernel, ⟨0, 0, ⟨by decide, by decide, by decide⟩, rfl, rfl⟩, by decide +kernel⟩
  rintro ⟨r, c, -, hx, -⟩
  have : ((sprite 0x80 63 31).reg 0).toNat = 63 := by decide
  omega

/-- The memory clause at its edge: one row at 0xFFF is in memory, two are not. -/
theorem witness_DrawXorsTheSprite_memory :
    1 ≤ (2 : Nibble).toNat ∧ 4096 < (sprite 0x80 63 31).i.toNat + (2 : Nibble).toNat := by decide

/-- The off-grid clause: the only set bit, column 7, falls at x = 64; and one at y = 32. -/
theorem witness_DrawXorsTheSprite_offGrid :
    ((1 : Nibble).toNat = 0 ∨ (sprite 0x01 57 0).i.toNat + (1 : Nibble).toNat ≤ 4096) ∧
    bitOffGrid (sprite 0x01 57 0) 0 1 1 0 7 ∧
    (∀ r' c', r' < 0 ∨ (r' = 0 ∧ c' < 7) → ¬ bitOffGrid (sprite 0x01 57 0) 0 1 1 r' c') ∧
    bitOffGrid (sprite 0x80 0 32) 0 1 1 0 0 := by
  refine ⟨by decide, ⟨⟨by decide, by decide, by decide⟩, by decide⟩, ?_, ⟨by decide, by decide, by decide⟩, by decide⟩
  rintro r' c' (h | ⟨rfl, h⟩) ⟨⟨-, -, hb⟩, -⟩
  · omega
  · revert hb; revert h; revert c'; decide

/-- The sprite drawn once. -/
def drawnOnce : State := stateOr State.reset (exec (.drw 0 1 1) (sprite 0x80 63 31))

theorem witness_DrawTwiceRestoresTheScreen : (0 : Reg) ≠ regF ∧ (1 : Reg) ≠ regF ∧ (sprite 0x80 63 31).running ∧
    exec (.drw 0 1 1) (sprite 0x80 63 31) = .next drawnOnce ∧ drawnOnce.running ∧
    exec (.drw 0 1 1) drawnOnce = .next (stateOr State.reset (exec (.drw 0 1 1) drawnOnce)) ∧
    spriteBit (sprite 0x80 63 31) 1 0 0 :=
  ⟨by decide, by decide, by decide, rfl, by decide, rfl, by decide, by decide, by decide⟩

theorem witness_SkipsOnKey : (15 : Fin 16).val = ((State.reset.setReg 0 15).reg 0).toNat ∧
    0xF < ((State.reset.setReg 0 16).reg 0).toNat := by decide

theorem witness_WaitForKeyTakesTheLowest : (∀ k, State.reset.keyDown k = false) ∧ (withKeys [7, 9]).keyDown 7 = true ∧
    ∀ j, j < (7 : Fin 16) → (withKeys [7, 9]).keyDown j = false := by decide

/-- FX15 at 0x200 and FX07 at 0x202. -/
def timerStart : State := (State.reset.setReg 0 3).writeBytes 0x200 [0xF0, 0x15, 0xF1, 0x07]
/-- FX18 at 0x200. -/
def soundStart : State := (State.reset.setReg 0 3).writeBytes 0x200 [0xF0, 0x18]

theorem witness_TimerSetIsReadOneLess :
    (decodeWord soundStart.wordAtPc = some (.ldStVx 0) ∧
      cycle .perInstruction 0xA7 soundStart = .next (cycled .perInstruction soundStart, .completed)) ∧
    decodeWord timerStart.wordAtPc = some (.ldDtVx 0) ∧
    cycle .perInstruction 0xA7 timerStart = .next (cycled .perInstruction timerStart, .completed) ∧
    decodeWord (cycled .perInstruction timerStart).wordAtPc = some (.ldVxDt 1) ∧
    cycle .perInstruction 0xA7 (cycled .perInstruction timerStart) =
      .next (cycled .perInstruction (cycled .perInstruction timerStart), .completed) :=
  ⟨⟨by decide, rfl⟩, by decide, rfl, by decide, rfl⟩

/-- The largest program that fits and the smallest that does not, and a step asked for after the failed LOAD. -/
theorem witness_LoadCopiesTheProgram : State.reset.mem.wf ∧ (List.replicate 3584 (0xAA : Byte)).length ≤ 3584 ∧
    3584 < (List.replicate 3585 (0xAA : Byte)).length ∧ HostOp.init ∉ [HostOp.step 0xA7, .present] ∧
    hostRun .perInstruction [.step 0xA7, .present] (State.reset.raise .capacityExceeded 3585) =
      some (State.reset.raise .capacityExceeded 3585) :=
  ⟨by decide, by rw [List.length_replicate], by rw [List.length_replicate]; decide, by decide, rfl⟩

theorem witness_TickDecaysTheTimers : halted.halted = true ∧ State.reset.running := by decide

/-- A CXNN at the last fetchable address, and three states whose step executes none: another word, a fetch out of range, a halted
core. -/
theorem witness_RandIsTheByteOfTheStep :
    ((atEnd 0xC30F).running ∧ (atEnd 0xC30F).fetchable ∧ decodeWord (atEnd 0xC30F).wordAtPc = some (.rnd 3 0x0F) ∧ 7 < 8) ∧
    decodeWord (atEnd 0x6042).wordAtPc = some (.ldImm 0 0x42) ∧ ¬ (atPc 0xFFF).fetchable ∧ ¬ halted.running := by decide

end Sys2Proof.Tests
end

section
/-! PROOFS. The state: what an instruction can do to it, said once (`Effect`), and what follows of it: which instructions write
which part, the invariant, the halted state, INIT. -/

namespace Sys2Proof.Machine

/-! ## What an instruction can do -/

/-- Everything `execute` can do from `s`: the instruction and the state it answers. Where several instructions share a shape of
write, the value written is left free. -/
inductive Effect (s : State) : Instr → State → Prop
  /-- A fault is latched and nothing written (R88); only LOAD raises CAPACITY_EXCEEDED. -/
  | raises {i : Instr} (k : FaultKind) (n : Nat) (hk : k ≠ .capacityExceeded) : Effect s i (s.raise k n)
  /-- FX0A with no key down (R87). -/
  | waits (x : Reg) (hk : s.lowestKey = none) : Effect s (.ldVxK x) s
  /-- 1NNN, BNNN and the skips: pc only, at most 0x10FE from a pc that can be fetched from (R15). -/
  | jumps {i : Instr} (w : Word) (hw : s.fetchable → w.toNat ≤ 0x10FE) (hi : writesFlag i = false) : Effect s i (s.setPc w)
  | calls (nnn : Addr12) (room : s.sp.val < 16) :
      Effect s (.call nnn) ((s.push (s.pc + 2) room).setPc (nnn.setWidth 16))
  | returns (used : s.sp.val ≠ 0) : Effect s .ret (s.pop.setPc s.topEntry)
  /-- One register, named by the instruction, and no flag. -/
  | loads {i : Instr} (x : Reg) (b : Byte) (hx : x = regF → writesVFAsData i = true) (hi : writesFlag i = false) :
      Effect s i (s.setReg x b).advance
  | random (x : Reg) (nn b : Byte) : Effect s (.rnd x nn) (s.countDraw.setReg x b).advance
  /-- 8XY4 to 8XY7 and 8XYE: one register, then the flag. -/
  | computes {i : Instr} (x : Reg) (b : Byte) (c : Bool) (hi : writesFlag i = true) :
      Effect s i ((s.setReg x b).setFlag c).advance
  | clears : Effect s .cls (s.setFb 0).advance
  | draws (x y : Reg) (n : Nibble) (fb : Framebuffer) (c : Bool) : Effect s (.drw x y n) ((s.setFb fb).setFlag c).advance
  /-- ANNN and FX29. -/
  | setsIndex {i : Instr} (w : Word) (hi : writesIndex i = true) (hf : writesFlag i = false) : Effect s i (s.setI w).advance
  | addsToIndex (x : Reg) (w : Word) (c : Bool) : Effect s (.addIVx x) ((s.setI w).setFlag c).advance
  | setsDelay (x : Reg) : Effect s (.ldDtVx x) (s.setDt (s.reg x)).advance
  | setsSound (x : Reg) : Effect s (.ldStVx x) (s.setSt (s.reg x)).advance
  | storesDigits (x : Reg) (h : s.i.toNat + 3 ≤ 4096) :
      Effect s (.ldBVx x) { s with mem := (s.writeBytes s.i.toNat (decimalDigits (s.reg x))).mem }.advance
  | storesRegs (x : Reg) (h : s.i.toNat + (x.val + 1) ≤ 4096) :
      Effect s (.storeRegs x)
        (State.setI { s with mem := (storeAll s (regsTo x)).mem } (u16 (s.i.toNat + x.val + 1))).advance
  | loadsRegs (x : Reg) (h : s.i.toNat + (x.val + 1) ≤ 4096) :
      Effect s (.loadRegs x)
        (State.setI { s with v := (loadAll s (regsTo x)).v } (u16 (s.i.toNat + x.val + 1))).advance

/-- The meaning `m` of `i` answers a next state that is one of the effects of `i`. -/
def Answers (s : State) (i : Instr) (m : Result) : Prop := ∃ t, m = .next t ∧ Effect s i t

theorem Effect.answers {s t : State} {i : Instr} (h : Effect s i t) : Answers s i (done t) := ⟨t, rfl, h⟩

theorem answers_fail (s : State) (i : Instr) {k : FaultKind} (n : Nat) (hk : k ≠ .capacityExceeded) :
    Answers s i (fail s k n) := (Effect.raises k n hk).answers

/-- pc + 2 and pc + 4 after an instruction that could be fetched (R81). -/
theorem pc_advance_toNat {s : State} (hf : s.fetchable) (d : Word) (hd : d.toNat ≤ 4) :
    (s.pc + d).toNat = s.pc.toNat + d.toNat := by
  have hf : s.pc.toNat + 1 < 4096 := hf
  rw [BitVec.toNat_add]
  omega

theorem answers_skipIf (s : State) {i : Instr} (c : Bool) (hi : writesFlag i = false) :
    Answers s i (done (s.skipIf c)) := by
  refine (Effect.jumps _ (fun hf => ?_) hi).answers
  have hp : s.pc.toNat + 1 < 4096 := hf
  have h2 := pc_advance_toNat hf 2 (by decide)
  have h4 := pc_advance_toNat hf 4 (by decide)
  cases c
  · exact h2.trans_le (by simp; omega)
  · exact h4.trans_le (by simp; omega)

theorem answers_withKey (s : State) {i : Instr} (x : Reg) {rest : Fin 16 → Result} (h : ∀ k, Answers s i (rest k)) :
    Answers s i (withKey s x rest) := by
  unfold withKey
  split
  · exact h _
  · exact answers_fail s i _ (by decide)

theorem answers_checked (s : State) {i : Instr} (len : Nat) {rest : Result}
    (h : s.i.toNat + len ≤ 4096 ∨ len = 0 → Answers s i rest) : Answers s i (checked s (indexAddresses s len) rest) := by
  rw [checked_indexAddresses]
  split
  · exact h ‹_›
  · exact answers_fail s i _ (by decide)

theorem answers_execRet (s : State) : Answers s .ret (execRet s) := by
  unfold execRet
  split
  · exact answers_fail s _ _ (by decide)
  · exact (Effect.returns ‹_›).answers

theorem answers_execCall (s : State) (nnn : Addr12) : Answers s (.call nnn) (execCall nnn s) := by
  unfold execCall
  split
  · exact (Effect.calls nnn ‹_›).answers
  · exact answers_fail s _ _ (by decide)

theorem answers_execJp (s : State) (nnn : Addr12) : Answers s (.jp nnn) (execJp nnn s) := by
  refine (Effect.jumps _ (fun _ => ?_) rfl).answers
  have := nnn.isLt
  simp only [BitVec.toNat_setWidth]
  omega

theorem answers_execJpV0 (s : State) (nnn : Addr12) : Answers s (.jpV0 nnn) (execJpV0 nnn s) := by
  refine (Effect.jumps _ (fun _ => ?_) rfl).answers
  have := nnn.isLt
  have := (s.reg reg0).isLt
  simp only [u16_toNat]
  omega

theorem answers_execDrw (s : State) (x y : Reg) (n : Nibble) : Answers s (.drw x y n) (execDrw x y n s) := by
  refine answers_checked s _ fun _ => ?_
  dsimp only
  split
  · exact answers_fail s _ _ (by decide)
  · exact (Effect.draws x y n _ _).answers

theorem answers_execSkp (s : State) (x : Reg) : Answers s (.skp x) (execSkp x s) :=
  answers_withKey s x fun _ => answers_skipIf s _ rfl

theorem answers_execSknp (s : State) (x : Reg) : Answers s (.sknp x) (execSknp x s) :=
  answers_withKey s x fun _ => answers_skipIf s _ rfl

theorem answers_execLdVxK (s : State) (x : Reg) : Answers s (.ldVxK x) (execLdVxK x s) := by
  unfold execLdVxK
  split
  · exact (Effect.waits x ‹_›).answers
  · exact (Effect.loads x _ (by simp [writesVFAsData]) rfl).answers

theorem answers_execLdBVx (s : State) (x : Reg) : Answers s (.ldBVx x) (execLdBVx x s) := by
  refine answers_checked s _ fun h => ?_
  rw [State.writeBytes_eq]
  exact (Effect.storesDigits x (by omega)).answers

theorem answers_execStoreRegs (s : State) (x : Reg) : Answers s (.storeRegs x) (execStoreRegs x s) := by
  refine answers_checked s _ fun h => ?_
  rw [storeAll_eq]
  exact (Effect.storesRegs x (by omega)).answers

theorem answers_execLoadRegs (s : State) (x : Reg) : Answers s (.loadRegs x) (execLoadRegs x s) := by
  refine answers_checked s _ fun h => ?_
  rw [loadAll_eq]
  exact (Effect.loadsRegs x (by omega)).answers

/-- Every instruction answers a next state, and it is one of its effects. -/
theorem execute_answers (rand : Byte) (i : Instr) (s : State) : Answers s i (execute rand i s) := by
  cases i with
  | cls => exact Effect.clears.answers
  | ret => exact answers_execRet s
  | jp nnn => exact answers_execJp s nnn
  | call nnn => exact answers_execCall s nnn
  | jpV0 nnn => exact answers_execJpV0 s nnn
  | seImm | sneImm | seReg | sneReg => exact answers_skipIf s _ rfl
  | skp x => exact answers_execSkp s x
  | sknp x => exact answers_execSknp s x
  | ldImm | addImm | ldReg | orReg | andReg | xorReg | ldVxDt =>
    exact (Effect.loads _ _ (by simp [writesVFAsData]) rfl).answers
  | addReg | subReg | shr | subnReg | shl => exact (Effect.computes _ _ _ rfl).answers
  | rnd x nn => exact (Effect.random x nn _).answers
  | drw x y n => exact answers_execDrw s x y n
  | ldI | ldFVx => exact (Effect.setsIndex _ rfl rfl).answers
  | addIVx x => exact (Effect.addsToIndex x _ _).answers
  | ldVxK x => exact answers_execLdVxK s x
  | ldDtVx x => exact (Effect.setsDelay x).answers
  | ldStVx x => exact (Effect.setsSound x).answers
  | ldBVx x => exact answers_execLdBVx s x
  | storeRegs x => exact answers_execStoreRegs s x
  | loadRegs x => exact answers_execLoadRegs s x

theorem effect_of_execute {rand : Byte} {i : Instr} {s t : State} (h : execute rand i s = .next t) : Effect s i t := by
  obtain ⟨u, hu, he⟩ := execute_answers rand i s
  rw [hu] at h
  cases h
  exact he

/-! ## The latch (R24, R86) -/

/-- An instruction raises a fault or keeps the latch. -/
theorem Effect.latch {s t : State} {i : Instr} (h : Effect s i t) :
    (∃ k n, k ≠ .capacityExceeded ∧ t = s.raise k n) ∨
      t.halted = s.halted ∧ t.faultCode = s.faultCode ∧ t.faultInfo = s.faultInfo := by
  cases h with
  | raises k n hk => exact .inl ⟨k, n, hk, rfl⟩
  | _ => exact .inr ⟨rfl, rfl, rfl⟩

/-- The step's end changes DT and ST only. -/
theorem finish_state (mode : Config.TimerMode) (i : Instr) (s t : State) :
    (finish mode i s t).1 = t ∨ (finish mode i s t).1 = t.decay := by
  unfold finish
  split
  · exact .inr rfl
  · exact .inl rfl

theorem resultOf_halted (i : Instr) {s t : State} (h : t.halted = true) : resultOf i s t = .fault t.faultCode := by
  simp [resultOf, h]

/-- Settles O15: of the ways a cycle ends, only an instruction that did not raise returns no FAULT, and it keeps the latch. -/
theorem onlyFaultsWriteTheLatch : Obligations.OnlyFaultsWriteTheLatch := by
  unfold Obligations.OnlyFaultsWriteTheLatch
  intro mode rand s u r hc hr
  obtain ⟨hs, ⟨a, -, e⟩ | ⟨op, -, -, e⟩ | ⟨op, i, t, -, -, he, e⟩⟩ := cycle_cases hc
  · exact absurd (congrArg Prod.snd e) (hr _)
  · exact absurd (congrArg Prod.snd e) (hr _)
  · have hu : u = (finish mode i s t).1 := congrArg Prod.fst e
    have hrt : r = resultOf i s t := congrArg Prod.snd e
    obtain ⟨k, n, -, rfl⟩ | ⟨hh, hcode, hinfo⟩ := (effect_of_execute he).latch
    · exact absurd (hrt.trans (resultOf_halted i rfl)) (hr _)
    · rw [← hs, ← hh, ← hcode, ← hinfo, hu]
      obtain h | h := finish_state mode i s t <;> rw [h] <;> exact ⟨rfl, rfl, rfl⟩

/-! ## The invariant -/

theorem faultKind_code_range (k : FaultKind) : 1 ≤ k.code.toNat ∧ k.code.toNat ≤ 7 := by cases k <;> decide

theorem raise_inv {s : State} (h : s.Inv) (k : FaultKind) (n : Nat) : (s.raise k n).Inv := by
  obtain ⟨hm, hp, hst, -⟩ := h
  exact ⟨hm, hp, hst, faultKind_code_range k⟩

/-- The invariant does not speak of the timers. -/
theorem decay_inv {s : State} (h : s.Inv) : s.decay.Inv := h

theorem Effect.mem_wf {s t : State} {i : Instr} (h : Effect s i t) (hm : s.mem.wf) : t.mem.wf := by
  cases h with
  | storesDigits x hr => exact State.writeBytes_wf s _ _ hm hr
  | storesRegs x hr =>
    refine storeAll_wf s hm _ fun r hrx => ?_
    have : r.val ≤ x.val := (mem_regsTo x r).mp hrx
    omega
  | _ => exact hm

/-- An instruction fetched below the edge of memory leaves pc at most 0x10FE, given that of the stack entries (R15). -/
theorem Effect.pc_le {s t : State} {i : Instr} (h : Effect s i t) (hf : s.fetchable)
    (hst : ∀ k : Fin 16, s.stack[k].toNat ≤ 0x1000) : t.pc.toNat ≤ 0x10FE := by
  have hp : s.pc.toNat + 1 < 4096 := hf
  have next : (s.pc + 2).toNat ≤ 0x10FE := (pc_advance_toNat hf 2 (by decide)).trans_le (by simp; omega)
  cases h with
  | raises | waits => change s.pc.toNat ≤ 0x10FE; omega
  | jumps w hw => exact hw hf
  | calls nnn room =>
    have := nnn.isLt
    simp only [State.setPc_pc, BitVec.toNat_setWidth]
    omega
  | returns used =>
    have := s.sp.isLt
    exact (hst ⟨s.sp.val - 1, by omega⟩).trans (by decide)
  | _ => exact next

/-- 2NNN pushes a return address of at most 0x1000; nothing else writes the stack (R18, R100). -/
theorem Effect.stack_le {s t : State} {i : Instr} (h : Effect s i t) (hf : s.fetchable)
    (hst : ∀ k : Fin 16, s.stack[k].toNat ≤ 0x1000) : ∀ k : Fin 16, t.stack[k].toNat ≤ 0x1000 := by
  cases h with
  | calls nnn room =>
    intro k
    have hp : s.pc.toNat + 1 < 4096 := hf
    have pushed : (s.pc + 2).toNat ≤ 0x1000 := (pc_advance_toNat hf 2 (by decide)).trans_le (by simp; omega)
    simp only [State.setPc_stack, State.push_stack, Fin.getElem_fin, Vector.getElem_set]
    split
    · exact pushed
    · exact hst k
  | _ => exact hst

theorem Effect.inv {s t : State} {i : Instr} (h : Effect s i t) (hf : s.fetchable) (hs : s.Inv) : t.Inv := by
  obtain ⟨k, n, -, rfl⟩ | ⟨hh, hcode, hinfo⟩ := h.latch
  · exact raise_inv hs k n
  · obtain ⟨hm, -, hst, hl⟩ := hs
    refine ⟨h.mem_wf hm, h.pc_le hf hst, h.stack_le hf hst, ?_⟩
    unfold State.latchLegal
    rwa [hh, hcode, hinfo]

theorem fetchable_of_fetch {s : State} {op : Word} (h : fetch s = .ok op) : s.fetchable := by
  rw [fetch_eq] at h
  by_contra hf
  rw [if_neg (show ¬ s.pc.toNat + 1 < 4096 from hf)] at h
  cases h

theorem cycle_inv {mode : Config.TimerMode} {rand : Byte} {s u : State} {r : StepResult} (hs : s.Inv)
    (h : cycle mode rand s = .next (u, r)) : u.Inv := by
  obtain ⟨-, ⟨a, -, e⟩ | ⟨op, -, -, e⟩ | ⟨op, i, t, hf, -, he, e⟩⟩ := cycle_cases h
  · cases e; exact raise_inv hs _ _
  · cases e; exact raise_inv hs _ _
  · have ht : t.Inv := (effect_of_execute he).inv (fetchable_of_fetch hf) hs
    have hu : u = (finish mode i s t).1 := congrArg Prod.fst e
    obtain h | h := finish_state mode i s t <;> rw [hu, h]
    · exact ht
    · exact decay_inv ht

/-- A step that answers is a cycle that answers, in either mode and with every byte. -/
theorem stepIn_eq_next {mode : Config.TimerMode} {rand : Byte} {s u : State} :
    stepIn mode rand s = .next u ↔ ∃ r, cycle mode rand s = .next (u, r) := by
  unfold stepIn
  constructor
  · intro h
    split at h
    · cases h; exact ⟨_, ‹_›⟩
    · cases h
    · cases h
  · rintro ⟨r, h⟩
    rw [h]

theorem stepIn_inv {mode : Config.TimerMode} {rand : Byte} {s t : State} (hs : s.Inv) (h : stepIn mode rand s = .next t) :
    t.Inv := by
  obtain ⟨r, hr⟩ := stepIn_eq_next.mp h
  exact cycle_inv hs hr

/-- Settles O16: a fault keeps all but the latch, an instruction keeps each of the four clauses, and the decay touches none. -/
theorem stepKeepsTheInvariant : Obligations.StepKeepsTheInvariant :=
  ⟨fun _ _ hs h => stepIn_inv hs h, fun _ _ _ _ hs h => stepIn_inv hs h⟩

/-- Settles O17, clause by clause: memory lists nothing and the latch is clear. -/
theorem invariantHoldsAtReset : Obligations.InvariantHoldsAtReset := by
  refine ⟨Memory.reset_wf, by decide, fun k => ?_, rfl, rfl⟩
  simp [State.reset]

/-! ## The halted state (R24, R241, R254) -/

/-- LOAD leaves the registers and pc, and never clears HALTED (R272, R273). -/
theorem hostLoad_keeps_halted (bytes : List Byte) {s : State} (h : s.halted = true) :
    (hostLoad bytes s).1.halted = true ∧ (hostLoad bytes s).1.pc = s.pc ∧ (hostLoad bytes s).1.v = s.v := by
  unfold hostLoad
  split
  · rw [State.writeBytes_eq]; exact ⟨h, rfl, rfl⟩
  · exact ⟨rfl, rfl, rfl⟩

theorem hostStep_of_halted (mode : Config.TimerMode) (rand : Byte) {s : State} (h : s.halted = true) :
    hostStep mode rand s = .next (s, .stepped (.fault s.faultCode)) := by
  simp [hostStep, cycle, h]

theorem hostTick_of_halted {s : State} (h : s.halted = true) : hostTick s = s := if_pos h

/-- Settles O19, by cases on the host's operation. -/
theorem onlyInitLeavesTheHaltedState : Obligations.OnlyInitLeavesTheHaltedState := by
  unfold Obligations.OnlyInitLeavesTheHaltedState
  intro mode o s t out hs h hinit
  cases o with
  | init => exact absurd rfl hinit
  | load bytes =>
    have e : hostLoad bytes s = (t, out) := Host.Outcome.next.inj h
    simpa [e] using hostLoad_keeps_halted bytes hs
  | setKeys keys => cases h; exact ⟨hs, rfl, rfl⟩
  | step rand =>
    rw [show hostOp mode (.step rand) s = _ from hostStep_of_halted mode rand hs] at h
    cases h
    exact ⟨hs, rfl, rfl⟩
  | tick =>
    cases mode with
    | perInstruction => cases h
    | externalTick =>
      cases h
      rw [hostTick_of_halted hs]
      exact ⟨hs, rfl, rfl⟩
  | present => cases h; exact ⟨hs, rfl, rfl⟩
  | readStatus => cases h; exact ⟨hs, rfl, rfl⟩

/-! ## VF (R13) -/

theorem flagByte_eq_zero_or_one (c : Bool) : flagByte c = 0 ∨ flagByte c = 1 := by cases c <;> simp [flagByte]

theorem setFlag_reg_regF (s : State) (c : Bool) : (s.setFlag c).advance.reg regF = flagByte c := by simp

/-- An instruction that names VF neither as its flag nor as its destination keeps it. -/
theorem Effect.keeps_regF {s t : State} {i : Instr} (h : Effect s i t) (hf : writesFlag i = false)
    (hd : writesVFAsData i = false) : t.reg regF = s.reg regF := by
  cases h with
  | loads x b hx =>
    have hne : regF ≠ x := fun e => by simp [hx e.symm] at hd
    simp [hne]
  | random x nn b =>
    have hne : regF ≠ x := fun e => by simp [writesVFAsData, e] at hd
    simp [hne]
  | loadsRegs x =>
    have hx : x ≠ regF := by simpa [writesVFAsData] using hd
    have hnot : ¬ regF ≤ x := fun hle => hx (le_antisymm (Fin.le_last x) hle)
    exact (loadAll_reg s (regsTo x) regF).trans (if_neg (by simpa using hnot))
  | computes x b c hi => simp [hi] at hf
  | draws | addsToIndex => cases hf
  | _ => rfl

/-- A flag instruction that does not fault leaves its flag in VF. -/
theorem Effect.regF_flag {s t : State} {i : Instr} (h : Effect s i t) (ht : t.running) (hf : writesFlag i = true) :
    t.reg regF = 0 ∨ t.reg regF = 1 := by
  cases h with
  | raises => cases ht
  | computes x b c => rw [setFlag_reg_regF]; exact flagByte_eq_zero_or_one c
  | draws x y n fb c => rw [setFlag_reg_regF]; exact flagByte_eq_zero_or_one c
  | addsToIndex x w c => rw [setFlag_reg_regF]; exact flagByte_eq_zero_or_one c
  | jumps w hw hi => simp [hi] at hf
  | loads x b hx hi => simp [hi] at hf
  | setsIndex w hi hn => simp [hn] at hf
  | _ => cases hf

/-- Settles O20, from the two facts about the effects and the value of VF at reset. -/
theorem onlyFlagInstructionsWriteVF : Obligations.OnlyFlagInstructionsWriteVF :=
  ⟨fun _ _ _ _ h hf hd => (effect_of_execute h).keeps_regF hf hd,
    fun _ _ _ _ h _ ht hf => (effect_of_execute h).regF_flag ht hf, State.reset_reg regF⟩

/-! ## I, SP and the stack (R16, R17, R18) -/

theorem Effect.keeps_index {s t : State} {i : Instr} (h : Effect s i t) (hi : writesIndex i = false) : t.i = s.i := by
  cases h with
  | setsIndex w hw => simp [hw] at hi
  | addsToIndex | storesRegs | loadsRegs => cases hi
  | _ => rfl

theorem Effect.sp_change {s t : State} {i : Instr} (h : Effect s i t) (hsp : t.sp ≠ s.sp) :
    (i = .ret ∧ t.sp.val + 1 = s.sp.val) ∨ ∃ nnn, i = .call nnn ∧ t.sp.val = s.sp.val + 1 := by
  cases h with
  | calls nnn => exact .inr ⟨nnn, rfl, rfl⟩
  | returns used => exact .inl ⟨rfl, Nat.sub_add_cancel (Nat.pos_of_ne_zero used)⟩
  | _ => exact absurd rfl hsp

theorem Effect.stack_change {s t : State} {i : Instr} (h : Effect s i t) (hst : t.stack ≠ s.stack) :
    ∃ nnn, i = .call nnn := by
  cases h with
  | calls nnn => exact ⟨nnn, rfl⟩
  | _ => exact absurd rfl hst

/-- Settles O21, one fact about the effects for each of I, SP and the stack. -/
theorem onlyTheirInstructionsWriteIndexAndStack : Obligations.OnlyTheirInstructionsWriteIndexAndStack := by
  unfold Obligations.OnlyTheirInstructionsWriteIndexAndStack
  intro rand i s t h
  have he := effect_of_execute h
  exact ⟨he.keeps_index, he.sp_change, he.stack_change⟩

/-! ## The screen and the keypad (R21, R22, R23) -/

theorem Effect.screen_change {s t : State} {i : Instr} (h : Effect s i t) (hne : t.fb ≠ s.fb ∨ t.dirty ≠ s.dirty) :
    (i = .cls ∨ ∃ x y n, i = .drw x y n) ∧ t.dirty = true := by
  cases h with
  | clears => exact ⟨.inl rfl, rfl⟩
  | draws x y n => exact ⟨.inr ⟨x, y, n, rfl⟩, rfl⟩
  | _ => exact hne.elim (absurd rfl) (absurd rfl)

theorem Effect.keeps_key {s t : State} {i : Instr} (h : Effect s i t) : t.key = s.key := by
  cases h <;> rfl

/-- Settles O22, from the effects on the screen and on the keypad. -/
theorem onlyDisplayInstructionsWriteTheScreen : Obligations.OnlyDisplayInstructionsWriteTheScreen := by
  unfold Obligations.OnlyDisplayInstructionsWriteTheScreen
  intro rand i s t h
  have he := effect_of_execute h
  exact ⟨he.screen_change, he.keeps_key⟩

/-! ## INIT (R26, R270) -/

theorem font_length : font.length = 80 := rfl

/-- Past the font an unlisted address reads as zero (R26). -/
theorem initialByte_past_font {a : Nat} (h : 80 ≤ a) : initialByte a = 0 :=
  List.getD_eq_default _ _ (font_length.trans_le h)

theorem reset_atReset : State.reset.atReset := by
  unfold State.atReset
  refine ⟨State.reset_reg, rfl, rfl, rfl, fun k => ?_, rfl, rfl, fun a _ => State.reset_readMem a, fun a ha _ => ?_,
    fun idx _ => State.reset_cell idx, rfl, State.reset_keyDown, rfl, rfl, rfl⟩
  · simp [State.reset]
  · rw [State.reset_readMem, initialByte_past_font ha]

/-- `State.atReset` does not speak of the counter, the one field INIT keeps. -/
theorem init_atReset (s : State) : s.init.atReset := reset_atReset

/-- Settles O56: INIT answers the reset state but for the counter. -/
theorem initLeavesResetValues : Obligations.InitLeavesResetValues :=
  ⟨reset_atReset, font_length, fun _ s => ⟨s.init, rfl, init_atReset s⟩⟩

end Sys2Proof.Machine
end

section
/-! PROOFS. Memory: words laid out big-endian, what the decoder and the fetch read of two bytes, who writes memory and the timers,
and a store seen by the next fetch. -/

namespace Sys2Proof.Machine

/-! ## Words and bytes (R45, R60) -/

/-- The decoder is asked about the big-endian word of the first two bytes. -/
theorem decode_of_some {hi lo : Byte} {i : Instr} (h : decodeWord (wordOfBytes hi lo) = some i) (rest : List Byte) :
    decode (hi :: lo :: rest) = .ok (i, rest) := by
  simp [decode, h]

theorem decode_of_none {hi lo : Byte} (h : decodeWord (wordOfBytes hi lo) = none) (rest : List Byte) :
    decode (hi :: lo :: rest) = .error (.unknownOpcode (wordOfBytes hi lo)) := by
  simp [decode, h]

/-- Settles O5: the word of the two bytes as a number, then the decoder's two answers. -/
theorem decodeReadsTwoBytesBigEndian : Obligations.DecodeReadsTwoBytesBigEndian := by
  unfold Obligations.DecodeReadsTwoBytesBigEndian
  intro hi lo rest
  rw [← wordOfBytes_eq]
  exact ⟨fun _ h => decode_of_some h rest, fun h => decode_of_none h rest, rfl, rfl⟩

/-- The bytes of a word in memory order make the word again. -/
theorem wordOfBytes_extract (w : Word) : wordOfBytes (w.extractLsb' 8 8) (w.extractLsb' 0 8) = w := by
  apply BitVec.eq_of_toNat_eq
  have := w.isLt
  rw [wordOfBytes_eq, u16_toNat, extract_toNat, extract_toNat]
  omega

/-- The host's question about a 16-bit word is the decoder's answer on its two bytes. -/
theorem decodeTableWord_of_lt {w : Nat} (hw : w < 65536) : decodeTableWord 16 w = decodeWord (u16 w) := by
  have fits : 16 ≤ 16 ∧ w < 2 ^ 16 := ⟨le_rfl, hw⟩
  have word := wordOfBytes_extract (u16 w)
  unfold decodeTableWord
  rw [if_pos fits, bytesOfWord, ← u16]
  cases hd : decodeWord (u16 w) with
  | some i => rw [decode_of_some (word.symm ▸ hd)]
  | none => rw [decode_of_none (word.symm ▸ hd)]

/-! ## The placed word (R45, R81) -/

/-- Consecutive stores change only the bytes they store to. -/
theorem State.writeBytes_frame (s : State) (a : Nat) (bs : List Byte) (hm : s.mem.wf) :
    UnchangedOutside (fun p => ∃ q, p = .memByte q ∧ a ≤ q ∧ q < a + bs.length) s (s.writeBytes a bs) := by
  intro p hp
  cases p with
  | memByte q =>
    have outside : ¬ (a ≤ q ∧ q < a + bs.length) := fun h => hp ⟨q, rfl, h⟩
    exact (s.writeBytes_readMem a bs hm.1 q).trans (if_neg outside)
  | _ => rw [State.writeBytes_eq]; rfl

/-- Where the fetch reaches, the word is placed as two consecutive bytes at pc. -/
theorem State.withFetchWord_of_fetchable {s : State} (hf : s.fetchable) {w : Nat} (hw : w < 65536) :
    s.withFetchWord 16 w = s.writeBytes s.pc.toNat (bytesOfWord (u16 w)) := by
  unfold State.withFetchWord placeWord
  rw [if_pos hf, Nat.mod_eq_of_lt (show w < 2 ^ 16 from hw), u16]

theorem State.writeBytes_pc (s : State) (a : Nat) (bs : List Byte) : (s.writeBytes a bs).pc = s.pc := by
  rw [State.writeBytes_eq]

/-- The bytes of a word stored at pc are the word the fetch reads. -/
theorem fetch_writeBytes_bytesOfWord {s : State} (hm : s.mem.wf) (hf : s.fetchable) (w : Word) :
    fetch (s.writeBytes s.pc.toNat (bytesOfWord w)) = .ok w := by
  have read := s.writeBytes_readMem s.pc.toNat (bytesOfWord w) hm.1
  rw [fetch_eq, State.writeBytes_pc, if_pos hf, read, read]
  simp [bytesOfWord, wordOfBytes_extract]

/-- Settles O9: the word placed is the word fetched, hence the word at pc, and the stores touch its two bytes only. -/
theorem placedWordIsFetched : Obligations.PlacedWordIsFetched := by
  unfold Obligations.PlacedWordIsFetched
  intro s w hm hf hw
  have fetched := fetch_writeBytes_bytesOfWord hm hf (u16 w)
  have frame := s.writeBytes_frame s.pc.toNat (bytesOfWord (u16 w)) hm
  rw [← State.withFetchWord_of_fetchable hf hw] at fetched frame
  have atPc : (s.withFetchWord 16 w).wordAtPc = u16 w :=
    Except.ok.inj ((fetch_wordAtPc (fetchable_of_fetch fetched)).symm.trans fetched)
  refine ⟨?_, fetched, decodeTableWord_of_lt hw, frame.mono ?_⟩
  · rw [atPc, u16_toNat, Nat.mod_eq_of_lt hw]
  · rintro p ⟨q, rfl, hle, hlt⟩
    have hlt : q < s.pc.toNat + 2 := hlt
    obtain h | h : q = s.pc.toNat ∨ q = s.pc.toNat + 1 := by omega
    · exact .inl (congrArg _ h)
    · exact .inr (congrArg _ h)

/-! ## Memory and the timers (R19, R20, R43) -/

theorem Effect.mem_change {s t : State} {i : Instr} (h : Effect s i t) (hne : t.mem ≠ s.mem) :
    ∃ x, i = .ldBVx x ∨ i = .storeRegs x := by
  cases h with
  | storesDigits x => exact ⟨x, .inl rfl⟩
  | storesRegs x => exact ⟨x, .inr rfl⟩
  | _ => exact absurd rfl hne

theorem Effect.dt_change {s t : State} {i : Instr} (h : Effect s i t) (hne : t.dt ≠ s.dt) : ∃ x, i = .ldDtVx x := by
  cases h with
  | setsDelay x => exact ⟨x, rfl⟩
  | _ => exact absurd rfl hne

theorem Effect.st_change {s t : State} {i : Instr} (h : Effect s i t) (hne : t.st ≠ s.st) : ∃ x, i = .ldStVx x := by
  cases h with
  | setsSound x => exact ⟨x, rfl⟩
  | _ => exact absurd rfl hne

/-- Settles O23, one fact about the effects for each of memory, DT and ST. -/
theorem onlyTheirInstructionsWriteMemoryAndTimers : Obligations.OnlyTheirInstructionsWriteMemoryAndTimers := by
  unfold Obligations.OnlyTheirInstructionsWriteMemoryAndTimers
  intro rand i s t h
  have he := effect_of_execute h
  exact ⟨he.mem_change, he.dt_change, he.st_change⟩

/-! ## A store seen by the next fetch (R50, R278) -/

/-- FX55 whose addresses are all in range stores, advances I and goes on (R174). -/
theorem exec_storeRegs_of_inRange {s : State} {x : Reg} (h : s.i.toNat + x.val < 4096) :
    exec (.storeRegs x) s = .next ((storeAll s (regsTo x)).setI (u16 (s.i.toNat + x.val + 1))).advance :=
  (checked_indexAddresses s (x.val + 1) _).trans (if_pos (.inl h))

theorem storeAll_pc (s : State) (rs : List Reg) : (storeAll s rs).pc = s.pc := by rw [storeAll_eq]

/-- Memory after FX55 holds V[r] at I + r, for each r up to X. -/
theorem storeAll_regsTo_readMem {s : State} (hm : s.mem.wf) {x r : Reg} (hr : r ≤ x) :
    (storeAll s (regsTo x)).readMem (s.i.toNat + r.val) = s.reg r := by
  obtain ⟨-, stored, -⟩ := storeAll_spec s hm.1 (regsTo x)
  exact stored r ((mem_regsTo x r).mpr hr)

/-- A fetch in range reads the word of the two bytes from pc up (R81). -/
theorem fetch_of_bytes {s : State} {a : Nat} {hi lo : Byte} (hpc : s.pc.toNat = a) (ha : a + 1 < 4096)
    (hhi : s.readMem a = hi) (hlo : s.readMem (a + 1) = lo) : fetch s = .ok (wordOfBytes hi lo) := by
  subst hpc hhi hlo
  rw [fetch_eq, if_pos ha]

/-- Settles O47: pc after the store is I before it, and the bytes there are V0 and V1. -/
theorem storeIsSeenByTheNextFetch : Obligations.StoreIsSeenByTheNextFetch := by
  unfold Obligations.StoreIsSeenByTheNextFetch
  intro s t x hm hi hx hr he
  rw [exec_storeRegs_of_inRange hr] at he
  cases he
  rw [← wordOfBytes_eq]
  have inRange : s.fetchable := show s.pc.toNat + 1 < 4096 by omega
  refine fetch_of_bytes ?_ (by omega) (storeAll_regsTo_readMem hm (Fin.zero_le x)) (storeAll_regsTo_readMem hm (r := 1) hx)
  rw [State.advance_eq, State.setPc_pc, State.setI_pc, storeAll_pc]
  exact (pc_advance_toNat inRange 2 (by decide)).trans hi.symm

end Sys2Proof.Machine
end

section
/-! PROOFS. The encoding: a word of a format has the fields it is made of and is rebuilt from them, so decode and encode are
inverse, and exactly the words of a row of the opcode map decode (spec/30_encoding.md R61 to R69). -/

namespace Sys2Proof

open Sys2Proof.Machine

/-! ## The words of the formats as numbers, and their fields (R61, R62) -/

theorem fmtNNN_eq_u16 (f : Nibble) (nnn : Addr12) : fmtNNN f nnn = u16 (0x1000 * f.toNat + nnn.toNat) := by
  have := (fmtNNN f nnn).isLt
  apply BitVec.eq_of_toNat_eq
  rw [u16_toNat, ← fmtNNN_toNat, Nat.mod_eq_of_lt this]

theorem fmtXNN_eq_u16 (f : Nibble) (x : Reg) (nn : Byte) :
    fmtXNN f x nn = u16 (0x1000 * f.toNat + 0x100 * x.val + nn.toNat) := by
  have := (fmtXNN f x nn).isLt
  apply BitVec.eq_of_toNat_eq
  rw [u16_toNat, ← fmtXNN_toNat, Nat.mod_eq_of_lt this]

theorem fmtXYN_eq_u16 (f : Nibble) (x y : Reg) (n : Nibble) :
    fmtXYN f x y n = u16 (0x1000 * f.toNat + 0x100 * x.val + 0x10 * y.val + n.toNat) := by
  have := (fmtXYN f x y n).isLt
  apply BitVec.eq_of_toNat_eq
  rw [u16_toNat, ← fmtXYN_toNat, Nat.mod_eq_of_lt this]

@[simp] theorem fields_fmtNNN (f : Nibble) (nnn : Addr12) :
    familyOf (fmtNNN f nnn) = f.toNat ∧ nnnOf (fmtNNN f nnn) = nnn := by
  rw [fmtNNN_eq_u16]
  exact fields_NNN f.toNat nnn f.isLt

@[simp] theorem fields_fmtXNN (f : Nibble) (x : Reg) (nn : Byte) :
    familyOf (fmtXNN f x nn) = f.toNat ∧ xOf (fmtXNN f x nn) = x ∧ nnOf (fmtXNN f x nn) = nn := by
  rw [fmtXNN_eq_u16]
  exact fields_XNN f.toNat x nn f.isLt

@[simp] theorem fields_fmtXYN (f : Nibble) (x y : Reg) (n : Nibble) :
    familyOf (fmtXYN f x y n) = f.toNat ∧ xOf (fmtXYN f x y n) = x ∧ yOf (fmtXYN f x y n) = y ∧
      nOf (fmtXYN f x y n) = n := by
  rw [fmtXYN_eq_u16]
  exact fields_XYN f.toNat x y n f.isLt

/-! ## A word is rebuilt from its fields (R68) -/

theorem fmtNNN_of_fields {f : Nibble} {op : Word} (hf : familyOf op = f.toNat) : fmtNNN f (nnnOf op) = op := by
  apply BitVec.eq_of_toNat_eq
  rw [familyOf_eq] at hf
  rw [fmtNNN_toNat, nnnOf_toNat]
  omega

theorem fmtXNN_of_fields {f : Nibble} {low : Byte} {op : Word} (hf : familyOf op = f.toNat)
    (hlow : (nnOf op).toNat = low.toNat) : fmtXNN f (xOf op) low = op := by
  apply BitVec.eq_of_toNat_eq
  rw [familyOf_eq] at hf
  rw [nnOf_toNat] at hlow
  rw [fmtXNN_toNat, xOf_val]
  omega

theorem fmtXYN_of_fields {f low : Nibble} {op : Word} (hf : familyOf op = f.toNat)
    (hlow : (nOf op).toNat = low.toNat) : fmtXYN f (xOf op) (yOf op) low = op := by
  apply BitVec.eq_of_toNat_eq
  rw [familyOf_eq] at hf
  rw [nOf_toNat] at hlow
  rw [fmtXYN_toNat, xOf_val, yOf_val]
  omega

/-! ## Decode of encode (R61, R63, R69) -/

/-- The decoder reads every instruction back from its word: the family and the function digits select the branch, the other fields
are the operands. -/
theorem decodeWord_encode (i : Instr) : decodeWord (encode i) = some i := by
  cases i with
  | cls | ret => rfl
  | jp | call | ldI | jpV0 => simp [encode, decodeWord]
  | seImm | sneImm | ldImm | addImm | rnd => simp [encode, decodeWord]
  | seReg | sneReg | drw => simp [encode, decodeWord]
  | ldReg | orReg | andReg | xorReg | addReg | subReg | shr | subnReg | shl => simp [encode, decodeWord, decodeAlu]
  | skp | sknp => simp [encode, decodeWord, decodeKey]
  | ldVxDt | ldVxK | ldDtVx | ldStVx | addIVx | ldFVx | ldBVx | storeRegs | loadRegs =>
    simp [encode, decodeWord, decodeMisc]

/-- Settles O2: the operand types carry the field widths, so the law holds of every instruction. -/
theorem decodeOfEncodeIsIdentity : Obligations.DecodeOfEncodeIsIdentity := fun i _ => decodeWord_encode i

/-! ## Encode of what was decoded (R63, R64, R68), family by family -/

theorem encode_of_decodeZero {op : Word} {i : Instr} (h : decodeZero op = some i) : encode i = op := by
  unfold decodeZero at h
  split at h <;> cases h
  all_goals exact (BitVec.eq_of_toNat_eq ‹op.toNat = _›).symm

theorem encode_of_decodeAlu {op : Word} {i : Instr} (hf : familyOf op = 0x8) (h : decodeAlu op = some i) : encode i = op := by
  unfold decodeAlu at h
  split at h <;> cases h
  all_goals exact fmtXYN_of_fields hf ‹(nOf op).toNat = _›

theorem encode_of_decodeKey {op : Word} {i : Instr} (hf : familyOf op = 0xE) (h : decodeKey op = some i) : encode i = op := by
  unfold decodeKey at h
  split at h <;> cases h
  all_goals exact fmtXNN_of_fields hf ‹(nnOf op).toNat = _›

theorem encode_of_decodeMisc {op : Word} {i : Instr} (hf : familyOf op = 0xF) (h : decodeMisc op = some i) :
    encode i = op := by
  unfold decodeMisc at h
  split at h <;> cases h
  all_goals exact fmtXNN_of_fields hf ‹(nnOf op).toNat = _›

/-- The branch `h_k` of the decoder is family k - 1; `h_17` is no family. -/
theorem encode_of_decodeWord {op : Word} {i : Instr} (h : decodeWord op = some i) : encode i = op := by
  unfold decodeWord at h
  split at h
  case h_1 => exact encode_of_decodeZero h
  case h_2 hf | h_3 hf | h_11 hf | h_12 hf => cases h; exact fmtNNN_of_fields hf
  case h_4 hf | h_5 hf | h_7 hf | h_8 hf | h_13 hf => cases h; exact fmtXNN_of_fields hf rfl
  case h_6 hf | h_10 hf =>
    obtain ⟨hn, ⟨⟩⟩ := Option.ite_none_right_eq_some.mp h
    exact fmtXYN_of_fields hf hn
  case h_9 hf => exact encode_of_decodeAlu hf h
  case h_14 hf => cases h; exact fmtXYN_of_fields hf rfl
  case h_15 hf => exact encode_of_decodeKey hf h
  case h_16 hf => exact encode_of_decodeMisc hf h
  case h_17 => cases h

/-- Settles O3: in each branch of the decoder the word is rebuilt from the fields it was read by. -/
theorem encodeOfDecodedIsTheWord : Obligations.EncodeOfDecodedIsTheWord := fun _ _ h => encode_of_decodeWord h

/-! ## The opcode map (R63, R64) -/

theorem rowOf_mem_opcodeMap (i : Instr) : rowOf i ∈ opcodeMap := by
  cases i <;> simp [opcodeMap, rowExamples, rowOf]

theorem holds_iff (r : OpRow) (op : Word) : r.holds op = true ↔ op &&& r.mask = r.pattern := beq_iff_eq

/-- The word of an instruction belongs to the instruction's row, by the mask of its format. -/
theorem rowOf_holds_encode (i : Instr) : (rowOf i).holds (encode i) = true := by
  rw [holds_iff]
  cases i with
  | cls | ret => rfl
  | jp | call | ldI | jpV0 => exact Laws.EncodesToRow.maskNNN _ _ _ rfl
  | seImm | sneImm | ldImm | addImm | rnd => exact Laws.EncodesToRow.maskXNN _ _ _ _ rfl
  | seReg | sneReg | ldReg | orReg | andReg | xorReg | addReg | subReg | shr | subnReg | shl =>
    exact Laws.EncodesToRow.maskXY _ _ _ _ _ rfl
  | drw => exact Laws.EncodesToRow.maskXYN _ _ _ _ _ rfl
  | skp | sknp | ldVxDt | ldVxK | ldDtVx | ldStVx | addIVx | ldFVx | ldBVx | storeRegs | loadRegs =>
    exact Laws.EncodesToRow.maskXfn _ _ _ _ rfl

section Holds
variable {p m op : Word} (h : OpRow.holds ⟨p, m⟩ op = true)
include h

/-- A field that a row fixes whole is, in every word of the row, the field of the row's pattern. -/
theorem extract_of_holds (lo : Nat) {len : Nat} (hm : m.extractLsb' lo len = BitVec.allOnes len) :
    op.extractLsb' lo len = p.extractLsb' lo len := by
  have hp : op &&& m = p := (holds_iff _ op).mp h
  rw [← hp, BitVec.extractLsb'_and, hm, BitVec.and_allOnes]

theorem familyOf_of_holds (hm : m.extractLsb' 12 4 = 0xF) : familyOf op = familyOf p :=
  congrArg BitVec.toNat (extract_of_holds h 12 hm)

theorem nOf_of_holds (hm : m.extractLsb' 0 4 = 0xF) : (nOf op).toNat = (nOf p).toNat :=
  congrArg BitVec.toNat (extract_of_holds h 0 hm)

theorem nnOf_of_holds (hm : m.extractLsb' 0 8 = 0xFF) : (nnOf op).toNat = (nnOf p).toNat :=
  congrArg BitVec.toNat (extract_of_holds h 0 hm)

end Holds

/-- The instruction of the same row whose operands are the fields of a word (R61). -/
def Instr.withFieldsOf (op : Word) : Instr → Instr
  | .cls => .cls
  | .ret => .ret
  | .jp _ => .jp (nnnOf op)
  | .call _ => .call (nnnOf op)
  | .seImm _ _ => .seImm (xOf op) (nnOf op)
  | .sneImm _ _ => .sneImm (xOf op) (nnOf op)
  | .seReg _ _ => .seReg (xOf op) (yOf op)
  | .ldImm _ _ => .ldImm (xOf op) (nnOf op)
  | .addImm _ _ => .addImm (xOf op) (nnOf op)
  | .ldReg _ _ => .ldReg (xOf op) (yOf op)
  | .orReg _ _ => .orReg (xOf op) (yOf op)
  | .andReg _ _ => .andReg (xOf op) (yOf op)
  | .xorReg _ _ => .xorReg (xOf op) (yOf op)
  | .addReg _ _ => .addReg (xOf op) (yOf op)
  | .subReg _ _ => .subReg (xOf op) (yOf op)
  | .shr _ _ => .shr (xOf op) (yOf op)
  | .subnReg _ _ => .subnReg (xOf op) (yOf op)
  | .shl _ _ => .shl (xOf op) (yOf op)
  | .sneReg _ _ => .sneReg (xOf op) (yOf op)
  | .ldI _ => .ldI (nnnOf op)
  | .jpV0 _ => .jpV0 (nnnOf op)
  | .rnd _ _ => .rnd (xOf op) (nnOf op)
  | .drw _ _ _ => .drw (xOf op) (yOf op) (nOf op)
  | .skp _ => .skp (xOf op)
  | .sknp _ => .sknp (xOf op)
  | .ldVxDt _ => .ldVxDt (xOf op)
  | .ldVxK _ => .ldVxK (xOf op)
  | .ldDtVx _ => .ldDtVx (xOf op)
  | .ldStVx _ => .ldStVx (xOf op)
  | .addIVx _ => .addIVx (xOf op)
  | .ldFVx _ => .ldFVx (xOf op)
  | .ldBVx _ => .ldBVx (xOf op)
  | .storeRegs _ => .storeRegs (xOf op)
  | .loadRegs _ => .loadRegs (xOf op)

theorem rowOf_withFieldsOf (op : Word) (i : Instr) : rowOf (i.withFieldsOf op) = rowOf i := by cases i <;> rfl

/-- A word of an instruction's row is the word of the instruction with its operands read from the word: the row fixes the digits
that are no operand. -/
theorem encode_withFieldsOf {op : Word} {i : Instr} (h : (rowOf i).holds op = true) : encode (i.withFieldsOf op) = op := by
  cases i with
  | cls | ret => exact ((holds_iff _ op).mp h).symm.trans BitVec.and_allOnes
  | jp | call | ldI | jpV0 => exact fmtNNN_of_fields (familyOf_of_holds h rfl)
  | seImm | sneImm | ldImm | addImm | rnd => exact fmtXNN_of_fields (familyOf_of_holds h rfl) rfl
  | seReg | sneReg | ldReg | orReg | andReg | xorReg | addReg | subReg | shr | subnReg | shl =>
    exact fmtXYN_of_fields (familyOf_of_holds h rfl) (nOf_of_holds h rfl)
  | drw => exact fmtXYN_of_fields (familyOf_of_holds h rfl) rfl
  | skp | sknp | ldVxDt | ldVxK | ldDtVx | ldStVx | addIVx | ldFVx | ldBVx | storeRegs | loadRegs =>
    exact fmtXNN_of_fields (familyOf_of_holds h rfl) (nnOf_of_holds h rfl)

/-- A word that decodes belongs to the row of its instruction. -/
theorem rowOf_holds_of_decodeWord {op : Word} {i : Instr} (h : decodeWord op = some i) : (rowOf i).holds op = true := by
  have row := rowOf_holds_encode i
  rwa [encode_of_decodeWord h] at row

/-- A word of a row decodes, to an instruction of that row. -/
theorem exists_decodeWord_of_holds {op : Word} {r : OpRow} (hr : r ∈ opcodeMap) (h : r.holds op = true) :
    ∃ i, decodeWord op = some i ∧ rowOf i = r := by
  obtain ⟨i, -, rfl⟩ := List.mem_map.mp hr
  have decoded := decodeWord_encode (i.withFieldsOf op)
  rw [encode_withFieldsOf h] at decoded
  exact ⟨_, decoded, rowOf_withFieldsOf op i⟩

/-- Rows do not overlap: both are the row of the one instruction the word decodes to. -/
theorem row_unique {op : Word} {r r' : OpRow} (hr : r ∈ opcodeMap) (hr' : r' ∈ opcodeMap) (h : r.holds op = true)
    (h' : r'.holds op = true) : r = r' := by
  obtain ⟨i, hi, rfl⟩ := exists_decodeWord_of_holds hr h
  obtain ⟨i', hi', rfl⟩ := exists_decodeWord_of_holds hr' h'
  rw [Option.some.inj (hi.symm.trans hi')]

/-- Settles O4: membership both ways, and no overlap because decoding is a function. -/
theorem opcodeMapDecidesDecoding : Obligations.OpcodeMapDecidesDecoding :=
  ⟨fun _ i h => ⟨rowOf_mem_opcodeMap i, rowOf_holds_of_decodeWord h⟩, fun _ _ hr h => exists_decodeWord_of_holds hr h,
    fun _ _ _ hr hr' h h' => row_unique hr hr' h h', rfl⟩

/-- Settles O1, by running the decoder on the sixteen words. -/
theorem sampleWordsDecode : Obligations.SampleWordsDecode := by
  unfold Obligations.SampleWordsDecode
  decide

end Sys2Proof
end

section
/-! PROOFS. The step: how a cycle that answers ends, said once (`CycleEnds`), and what follows for its three results: the timer
decay, the blocked step and the faulting one; and the steps that decode no instruction (spec/40_step_cycle.md R80 to R89). -/

namespace Sys2Proof.Machine

/-! ## The end of an instruction's step (R85 to R88) -/

/-- The blocking instruction is FX0A, with no key down. -/
theorem blocks_eq_true_iff (i : Instr) (s : State) : blocks i s = true ↔ (∃ x, i = .ldVxK x) ∧ s.lowestKey = none := by
  cases i <;> simp [blocks]

/-- FX0A with no key down answers the state it is given, whatever RAND is. -/
theorem execute_ldVxK_of_noKey (rand : Byte) {s : State} (x : Reg) (hk : s.lowestKey = none) :
    execute rand (.ldVxK x) s = .next s := by
  simp [execute, exec, execLdVxK, hk]

theorem finish_raise (mode : Config.TimerMode) (i : Instr) (s : State) (k : FaultKind) (n : Nat) :
    finish mode i s (s.raise k n) = (s.raise k n, .fault k.code) := by
  simp [finish, resultOf]

theorem finish_of_blocks (mode : Config.TimerMode) {i : Instr} {s t : State} (ht : t.running) (hb : blocks i s = true) :
    finish mode i s t = (t, .blocked) := by
  simp [finish, resultOf, ht, hb]

theorem finish_of_not_blocks (mode : Config.TimerMode) {i : Instr} {s t : State} (ht : t.running) (hb : ¬ blocks i s = true) :
    finish mode i s t = (if mode = .perInstruction then t.decay else t, .completed) := by
  simp [finish, resultOf, ht, hb]

/-! ## How a cycle ends -/

/-- Every way a cycle of a running core can end: the state and the result it answers, of the three of R86. -/
inductive CycleEnds (mode : Config.TimerMode) (rand : Byte) (s : State) : State → StepResult → Prop
  /-- A fault of the fetch, the decoder or the instruction; only LOAD raises CAPACITY_EXCEEDED (R88, R239). -/
  | faults (k : FaultKind) (n : Nat) (hk : k ≠ .capacityExceeded) : CycleEnds mode rand s (s.raise k n) (.fault k.code)
  /-- FX0A with no key down (R87). -/
  | waits (x : Reg) (hd : decodeWord s.wordAtPc = some (.ldVxK x)) (hk : s.lowestKey = none) :
      CycleEnds mode rand s s .blocked
  /-- An instruction executed, and its timers decayed in PER_INSTRUCTION mode (R85). -/
  | completes (i : Instr) (t : State) (hd : decodeWord s.wordAtPc = some i) (he : execute rand i s = .next t) :
      CycleEnds mode rand s (if mode = .perInstruction then t.decay else t) .completed

/-- The instruction executed raised, kept the core running and blocked, or kept it running and completed. -/
theorem cycleEnds_finish {mode : Config.TimerMode} {rand : Byte} {s t : State} {i : Instr} (hs : s.running)
    (hd : decodeWord s.wordAtPc = some i) (he : execute rand i s = .next t) :
    CycleEnds mode rand s (finish mode i s t).1 (finish mode i s t).2 := by
  obtain ⟨k, n, hk, rfl⟩ | ⟨hh, -, -⟩ := (effect_of_execute he).latch
  · rw [finish_raise]
    exact .faults k n hk
  · have ht : t.running := hh.trans hs
    by_cases hb : blocks i s = true
    · rw [finish_of_blocks mode ht hb]
      obtain ⟨⟨x, rfl⟩, hk⟩ := (blocks_eq_true_iff i s).mp hb
      rw [execute_ldVxK_of_noKey rand x hk] at he
      cases he
      exact .waits x hd hk
    · rw [finish_of_not_blocks mode ht hb]
      exact .completes i t hd he

theorem wordAtPc_of_fetch {s : State} {op : Word} (h : fetch s = .ok op) : s.wordAtPc = op :=
  Except.ok.inj ((fetch_wordAtPc (fetchable_of_fetch h)).symm.trans h)

theorem cycleEnds_of_cycle {mode : Config.TimerMode} {rand : Byte} {s u : State} {r : StepResult}
    (h : cycle mode rand s = .next (u, r)) : CycleEnds mode rand s u r := by
  obtain ⟨hs, ⟨a, -, e⟩ | ⟨op, -, -, e⟩ | ⟨op, i, t, hf, hd, he, e⟩⟩ := cycle_cases h
  · cases e; exact .faults _ _ (by decide)
  · cases e; exact .faults _ _ (by decide)
  · obtain rfl := wordAtPc_of_fetch hf
    have ends := cycleEnds_finish (mode := mode) hs hd he
    rwa [← e] at ends

/-! ## Completed: the timer decay (R85, R277) -/

theorem decay_frame (s : State) : UnchangedOutside (fun p => p = .dt ∨ p = .st) s s.decay := by
  intro p hp
  cases p with
  | dt => exact absurd (.inl rfl) hp
  | st => exact absurd (.inr rfl) hp
  | _ => rfl

/-- Settles O12, by the way the cycle ends: one that completes decays in PER_INSTRUCTION mode only, and the two others leave the
timers. -/
theorem completedStepDecaysTimers : Obligations.CompletedStepDecaysTimers := by
  unfold Obligations.CompletedStepDecaysTimers
  intro mode rand s u r h
  cases cycleEnds_of_cycle h with
  | faults | waits => exact ⟨nofun, fun _ => ⟨rfl, rfl⟩⟩
  | completes i t hd he =>
    refine ⟨fun _ => ⟨i, t, hd, he, ?_, ?_⟩, fun hr => absurd rfl hr⟩
    · rintro rfl
      exact ⟨countDown_toNat t.dt, countDown_toNat t.st, decay_frame t⟩
    · rintro rfl
      rfl

/-- A completed step in PER_INSTRUCTION mode is the decoded instruction's state, decayed. -/
theorem decay_of_cycle_completed {rand : Byte} {s t u : State} {i : Instr} (hd : decodeWord s.wordAtPc = some i)
    (he : execute rand i s = .next t) (h : cycle .perInstruction rand s = .next (u, .completed)) : u = t.decay := by
  cases cycleEnds_of_cycle h with
  | completes j t' hd' he' =>
    cases hd.symm.trans hd'
    cases he.symm.trans he'
    rfl

/-- Settles O55: each step is its instruction's write, then one decay; FX07 copies DT before the decay of its own step. -/
theorem timerSetIsReadOneLess : Obligations.TimerSetIsReadOneLess := by
  unfold Obligations.TimerSetIsReadOneLess
  intro rand rand' s t u x y
  refine ⟨fun hd h => ?_, fun hd h => ?_⟩
  · have ht : t = (s.setSt (s.reg x)).advance.decay := decay_of_cycle_completed hd rfl h
    rw [ht]
    exact countDown_toNat (s.reg x)
  · have ht : t = (s.setDt (s.reg x)).advance.decay := decay_of_cycle_completed hd rfl h
    have hdt : t.dt.toNat = (s.reg x).toNat - 1 := by
      rw [ht]
      exact countDown_toNat (s.reg x)
    refine ⟨hdt, fun hd' h' => ?_⟩
    have hu : u = (t.setReg y t.dt).advance.decay := decay_of_cycle_completed hd' rfl h'
    rw [hu, ← hdt]
    simp

/-! ## Blocked (R87, R213) -/

/-- Settles O13: a cycle that ends BLOCKED waits for a key, and FX0A with no key down runs, blocks and is left as it is. -/
theorem onlyWaitForKeyBlocks : Obligations.OnlyWaitForKeyBlocks := by
  unfold Obligations.OnlyWaitForKeyBlocks
  refine fun mode rand s => ⟨fun u h => ?_, fun x hs hf hd hk => ?_⟩
  · cases cycleEnds_of_cycle h with
    | waits x hd hk => exact ⟨rfl, ⟨x, hd⟩, (lowestKey_eq_none s).mp hk⟩
  · have noKey := (lowestKey_eq_none s).mpr hk
    have blocked : blocks (.ldVxK x) s = true := (blocks_eq_true_iff _ s).mpr ⟨⟨x, rfl⟩, noKey⟩
    rw [cycle_execute hs (fetch_wordAtPc hf) hd (execute_ldVxK_of_noKey rand x noKey), finish_of_blocks mode hs blocked]

/-! ## Fault (R81, R88, R231, R239) -/

theorem faultKind_code_le_six {k : FaultKind} (hk : k ≠ .capacityExceeded) : k.code.toNat ≤ 6 := by
  cases k with
  | capacityExceeded => exact absurd rfl hk
  | _ => decide

/-- Settles O14: a cycle that ends FAULT raised a kind of fault other than LOAD's. -/
theorem faultStepChangesOnlyTheLatch : Obligations.FaultStepChangesOnlyTheLatch := by
  unfold Obligations.FaultStepChangesOnlyTheLatch
  intro mode rand s u code h
  cases cycleEnds_of_cycle h with
  | faults k n hk =>
    obtain ⟨-, -, -, frame⟩ := raise_latched s k n
    exact ⟨rfl, rfl, (faultKind_code_range k).1, faultKind_code_le_six hk, frame⟩

theorem cycle_of_fetch_error (mode : Config.TimerMode) (rand : Byte) {s : State} {a : Nat} (hs : s.running)
    (hf : fetch s = .error a) : cycle mode rand s = .next (faulted s .memoryOutOfRange a) := by
  simp [cycle, hs, hf]

/-- Settles O7: the fetch in range reads the word at pc; out of range it fails at max(pc, 4096), which the step latches. -/
theorem fetchReadsTheWordOrFaults : Obligations.FetchReadsTheWordOrFaults := by
  unfold Obligations.FetchReadsTheWordOrFaults
  refine fun s => ⟨fun hf => fetch_wordAtPc hf, fun hs hpc => ?_⟩
  have failed : fetch s = .error (max s.pc.toNat 4096) := (fetch_eq s).trans (if_neg (by omega))
  have lowest : max s.pc.toNat 4096 = if s.pc.toNat < 4096 then 4096 else s.pc.toNat := by
    split <;> omega
  rw [← lowest]
  exact ⟨_, step_eq_next.mpr ⟨_, cycle_of_fetch_error _ _ hs failed⟩, raise_latched s .memoryOutOfRange _⟩

/-! ## A running and a halted core (R80, R86, R89) -/

theorem cycle_of_decode_none (mode : Config.TimerMode) (rand : Byte) {s : State} {op : Word} (hs : s.running)
    (hf : fetch s = .ok op) (hd : decodeWord op = none) :
    cycle mode rand s = .next (faulted s .unknownOpcode op.toNat) := by
  simp [cycle, hs, hf, runWord, hd]

/-- Settles O11: the fetch fails, the word is of no row, or its instruction runs, and every instruction answers a state. -/
theorem runningCoreAlwaysSteps : Obligations.RunningCoreAlwaysSteps := by
  unfold Obligations.RunningCoreAlwaysSteps
  intro mode rand s hs
  cases hf : fetch s with
  | error a => exact ⟨_, _, cycle_of_fetch_error mode rand hs hf⟩
  | ok op =>
    cases hd : decodeWord op with
    | none => exact ⟨_, _, cycle_of_decode_none mode rand hs hf hd⟩
    | some i =>
      obtain ⟨t, he, -⟩ := execute_answers rand i s
      exact ⟨_, _, cycle_execute hs hf hd he⟩

/-- Settles O6: the cycle finishes what `execute` answers, and `step` is the cycle with the free byte. -/
theorem stepRunsTheDecodedInstruction : Obligations.StepRunsTheDecodedInstruction := by
  unfold Obligations.StepRunsTheDecodedInstruction
  intro s i hs hf hd
  have runs (mode rand t) (he : execute rand i s = .next t) : cycle mode rand s = .next (finish mode i s t) :=
    cycle_execute hs (fetch_wordAtPc hf) hd he
  refine ⟨fun t he => ?_, runs, execute_randByte i s, fun rand hi => execute_of_ne_rnd rand hi s⟩
  exact step_eq_next.mpr ⟨_, runs timerMode s.randByte t ((execute_randByte i s).trans he)⟩

theorem cycle_of_halted (mode : Config.TimerMode) (rand : Byte) {s : State} (h : s.halted = true) :
    cycle mode rand s = .fault (.halted s.faultCode s.faultInfo) := if_pos h

/-- Settles O10: the cycle of a halted core is the outcome `fault`, which the host is told with the state as it was. -/
theorem haltedStepReturnsTheLatchedFault : Obligations.HaltedStepReturnsTheLatchedFault := by
  unfold Obligations.HaltedStepReturnsTheLatchedFault
  refine fun s h => ⟨?_, fun mode rand => hostStep_of_halted mode rand h⟩
  rw [step, stepIn, cycle_of_halted timerMode s.randByte h]

end Sys2Proof.Machine
end

section
/-! PROOFS. Control transfer: the frames of the writes to pc and the call stack, what RET, JP, CALL and JP V0 answer in each case,
and the fetch from a pc past the edge of memory (spec/41_control.md R100 to R103). -/

namespace Sys2Proof.Machine

/-! ## The word of an instruction as a number (R62) -/

/-- The decoder reads an instruction back from its word written out as a number. -/
theorem decodeWord_u16_of_encode {i : Instr} {n : Nat} (h : (encode i).toNat = n) : decodeWord (u16 n) = some i := by
  have word : u16 n = encode i := by rw [← h, u16, BitVec.ofNat_toNat, BitVec.setWidth_eq]
  rw [word, decodeWord_encode]

theorem encode_call_toNat (nnn : Addr12) : (encode (.call nnn)).toNat = 0x2000 + nnn.toNat := fmtNNN_toNat 0x2 nnn

/-! ## Frames of pc and the call stack (R14, R18) -/

/-- What two writes after each other change is what the second or the first changes. -/
theorem UnchangedOutside.union {p q : Part → Prop} {s t u : State} (h : UnchangedOutside q s t)
    (h' : UnchangedOutside p t u) : UnchangedOutside (fun x => p x ∨ q x) s u :=
  (h.mono fun _ => .inr).trans (h'.mono fun _ => .inl)

theorem State.setPc_frame (s : State) (w : Word) : UnchangedOutside (fun p => p = .pc) s (s.setPc w) := by
  intro p hp
  cases p with
  | pc => exact absurd rfl hp
  | _ => rfl

/-- A pop keeps every stack entry, the popped one included. -/
theorem State.pop_frame (s : State) : UnchangedOutside (fun p => p = .sp) s s.pop := by
  intro p hp
  cases p with
  | sp => exact absurd rfl hp
  | _ => rfl

/-- A push writes the one entry SP names. -/
theorem State.push_frame (s : State) (w : Word) (room : s.sp.val < 16) :
    UnchangedOutside (fun p => p = .sp ∨ p = .stackEntry ⟨s.sp.val, room⟩) s (s.push w room) := by
  intro p hp
  cases p with
  | sp => exact absurd (.inl rfl) hp
  | stackEntry k =>
    have other : s.sp.val ≠ k.val := fun h => hp (.inr (congrArg Part.stackEntry (Fin.ext h.symm)))
    exact Vector.getElem_set_ne room k.isLt other
  | _ => rfl

theorem State.topEntry_eq {s : State} {k : Fin 16} (hk : k.val = s.sp.val - 1) : s.topEntry = s.stack[k] := by
  simp only [State.topEntry, ← hk, Fin.getElem_fin]

/-! ## What the instructions answer -/

theorem exec_ret_of_used {s : State} (h : s.sp.val ≠ 0) : exec .ret s = .next (s.pop.setPc s.topEntry) := if_neg h

theorem exec_ret_of_empty {s : State} (h : s.sp.val = 0) : exec .ret s = .next (s.raise .stackUnderflow 0x00EE) := if_pos h

theorem exec_jp (nnn : Addr12) (s : State) : exec (.jp nnn) s = .next (s.setPc (nnn.setWidth 16)) := rfl

theorem exec_call_of_room (nnn : Addr12) {s : State} (room : s.sp.val < 16) :
    exec (.call nnn) s = .next ((s.push (s.pc + 2) room).setPc (nnn.setWidth 16)) := dif_pos room

theorem exec_call_of_full (nnn : Addr12) {s : State} (h : ¬ s.sp.val < 16) :
    exec (.call nnn) s = .next (s.raise .stackOverflow (0x2000 + nnn.toNat)) := by
  rw [← encode_call_toNat]
  exact dif_neg h

theorem exec_jpV0 (nnn : Addr12) (s : State) :
    exec (.jpV0 nnn) s = .next (s.setPc (u16 (nnn.toNat + (s.reg 0).toNat))) := rfl

/-! ## The targets (R15, R81) -/

/-- A 12-bit target keeps its value in the 16-bit pc. -/
theorem setWidth_addr_toNat (nnn : Addr12) : (nnn.setWidth 16).toNat = nnn.toNat := by
  have := nnn.isLt
  rw [BitVec.toNat_setWidth]
  omega

/-- The sum of a 12-bit address and a byte does not wrap in 16 bits, and is at most 0x10FE. -/
theorem u16_addr_add_byte (nnn : Addr12) (b : Byte) :
    (u16 (nnn.toNat + b.toNat)).toNat = nnn.toNat + b.toNat ∧ nnn.toNat + b.toNat ≤ 0x10FE := by
  have := nnn.isLt
  have := b.isLt
  rw [u16_toNat]
  omega

/-- From 0xFFF up the fetch fails at the lowest of pc, pc + 1 that is out of memory. -/
theorem fetch_of_past_edge {s : State} (h : 0xFFF ≤ s.pc.toNat) : fetch s = .error (max 0x1000 s.pc.toNat) := by
  rw [fetch_eq, if_neg (by omega), max_comm]

/-! ## The statements -/

/-- Settles O24: RET on a used stack is a pop and a write of pc; on an empty one it raises. -/
theorem returnPopsTheStack : Obligations.ReturnPopsTheStack := by
  unfold Obligations.ReturnPopsTheStack
  refine ⟨rfl, fun s => ⟨fun used => ?_, fun empty => ?_⟩⟩
  · have frame := s.pop_frame.union (s.pop.setPc_frame s.topEntry)
    exact ⟨_, exec_ret_of_used used.ne', rfl, fun k hk => State.topEntry_eq hk, frame⟩
  · exact ⟨_, exec_ret_of_empty empty, raise_latched s .stackUnderflow 0x00EE⟩

/-- Settles O25: JP writes pc only, and a target of 0xFFF leaves its second byte out of memory. -/
theorem jumpSetsPc : Obligations.JumpSetsPc := by
  unfold Obligations.JumpSetsPc
  intro s nnn
  have target : (s.setPc (nnn.setWidth 16)).pc.toNat = nnn.toNat := setWidth_addr_toNat nnn
  refine ⟨decodeWord_u16_of_encode (fmtNNN_toNat 0x1 nnn), _, exec_jp nnn s, target, s.setPc_frame _, fun edge => ?_⟩
  rw [fetch_of_past_edge (by omega), target, edge]
  rfl

/-- Settles O26: CALL with room is a push and a write of pc; on a full stack it raises with its own word. -/
theorem callPushesTheReturnAddress : Obligations.CallPushesTheReturnAddress := by
  unfold Obligations.CallPushesTheReturnAddress
  refine fun s nnn => ⟨decodeWord_u16_of_encode (encode_call_toNat nnn), fun k hk => ?_, fun full => ?_⟩
  · have room : s.sp.val < 16 := hk ▸ k.isLt
    obtain rfl : k = ⟨s.sp.val, room⟩ := Fin.ext hk
    have pushed : ((s.push (s.pc + 2) room).stack)[s.sp.val] = u16 (s.pc.toNat + 2) := by
      rw [State.push_stack, Vector.getElem_set_self]
      exact BitVec.eq_of_toNat_eq (by simp)
    have frame := (s.push_frame (s.pc + 2) room).union ((s.push (s.pc + 2) room).setPc_frame (nnn.setWidth 16))
    exact ⟨_, exec_call_of_room nnn room, pushed, rfl, setWidth_addr_toNat nnn, frame⟩
  · exact ⟨_, exec_call_of_full nnn (by omega), raise_latched s .stackOverflow _⟩

/-- Settles O27: JP V0 writes pc only, and the sum fits in it, so the fetch sees a target past the edge as it is. -/
theorem jumpWithOffsetAddsV0 : Obligations.JumpWithOffsetAddsV0 := by
  unfold Obligations.JumpWithOffsetAddsV0
  intro s nnn
  obtain ⟨whole, bound⟩ := u16_addr_add_byte nnn (s.reg 0)
  have target : (s.setPc (u16 (nnn.toNat + (s.reg 0).toNat))).pc.toNat = nnn.toNat + (s.reg 0).toNat := whole
  refine ⟨decodeWord_u16_of_encode (fmtNNN_toNat 0xB nnn), _, exec_jpV0 nnn s, target, target.trans_le bound,
    s.setPc_frame _, fun edge => ?_⟩
  rw [fetch_of_past_edge (target.symm ▸ edge), target]

end Sys2Proof.Machine
end

section
/-! PROOFS. Skips: pc after a skip and its frame, what SE and SNE answer, and the words of the families 5 and 9 that are no
instruction (spec/42_skip.md R120 to R124). -/

namespace Sys2Proof.Machine

/-! ## A skip (R120) -/

/-- pc after a skip, the condition tested by the model being the proposition `p`. -/
theorem State.skipIf_pc (s : State) {c : Bool} {p : Prop} [Decidable p] (h : c = true ↔ p) :
    (s.skipIf c).pc = u16 (s.pc.toNat + if p then 4 else 2) := by
  apply BitVec.eq_of_toNat_eq
  by_cases hp : p
  · simp [h.mpr hp, hp]
  · have hc : c = false := Bool.eq_false_iff.mpr fun hc => hp (h.mp hc)
    simp [hc, hp]

theorem State.skipIf_frame (s : State) (c : Bool) : UnchangedOutside (fun p => p = .pc) s (s.skipIf c) := s.setPc_frame _

/-! ## What the instructions answer -/

theorem exec_seImm (x : Reg) (nn : Byte) (s : State) : exec (.seImm x nn) s = .next (s.skipIf (s.reg x == nn)) := rfl

theorem exec_sneImm (x : Reg) (nn : Byte) (s : State) : exec (.sneImm x nn) s = .next (s.skipIf (s.reg x != nn)) := rfl

theorem exec_seReg (x y : Reg) (s : State) : exec (.seReg x y) s = .next (s.skipIf (s.reg x == s.reg y)) := rfl

theorem exec_sneReg (x y : Reg) (s : State) : exec (.sneReg x y) s = .next (s.skipIf (s.reg x != s.reg y)) := rfl

/-! ## Words that are no skip (R64, D7) -/

/-- The families 5 and 9 have the one row whose last digit is 0. -/
theorem decodeWord_eq_none_of_nOf_ne_zero {op : Word} (hf : familyOf op = 0x5 ∨ familyOf op = 0x9)
    (hn : (nOf op).toNat ≠ 0) : decodeWord op = none := by
  obtain hf | hf := hf <;> simp only [decodeWord, hf, if_neg hn]

theorem decodeWord_XYN_eq_none {f n : Nat} (hf : f = 0x5 ∨ f = 0x9) (x y : Reg) (hpos : 0 < n) (hlt : n < 16) :
    decodeWord (u16 (0x1000 * f + 0x100 * x.val + 0x10 * y.val + n)) = none := by
  have digit : (BitVec.ofNat 4 n).toNat = n := Nat.mod_eq_of_lt hlt
  obtain ⟨family, -, -, last⟩ := fields_XYN f x y (BitVec.ofNat 4 n) (by omega)
  rw [digit] at family last
  refine decodeWord_eq_none_of_nOf_ne_zero (by rwa [family]) ?_
  rw [last, digit]
  exact hpos.ne'

/-! ## The statements -/

/-- Settles O28: both are a skip, on the condition and on its negation. -/
theorem skipsOnImmediate : Obligations.SkipsOnImmediate := by
  unfold Obligations.SkipsOnImmediate
  intro s x nn
  refine ⟨decodeWord_u16_of_encode (fmtXNN_toNat 0x3 x nn), decodeWord_u16_of_encode (fmtXNN_toNat 0x4 x nn), ?_, ?_⟩
  · exact ⟨_, exec_seImm x nn s, s.skipIf_pc beq_iff_eq, s.skipIf_frame _⟩
  · exact ⟨_, exec_sneImm x nn s, s.skipIf_pc bne_iff_ne, s.skipIf_frame _⟩

/-- Settles O29: both are a skip, on the condition and on its negation, and the decoder requires the last digit to be 0. -/
theorem skipsOnRegisters : Obligations.SkipsOnRegisters := by
  unfold Obligations.SkipsOnRegisters
  intro s x y
  refine ⟨decodeWord_u16_of_encode (fmtXYN_toNat 0x5 x y 0x0), decodeWord_u16_of_encode (fmtXYN_toNat 0x9 x y 0x0),
    fun n hpos hlt => ⟨?_, ?_⟩, ?_, ?_⟩
  · exact decodeWord_XYN_eq_none (.inl rfl) x y hpos hlt
  · exact decodeWord_XYN_eq_none (.inr rfl) x y hpos hlt
  · exact ⟨_, exec_seReg x y s, s.skipIf_pc beq_iff_eq, s.skipIf_frame _⟩
  · exact ⟨_, exec_sneReg x y s, s.skipIf_pc bne_iff_ne, s.skipIf_frame _⟩

end Sys2Proof.Machine
end

section
/-! PROOFS. Loads and ALU: the frame of a register write, with and without the flag after it, the flags and results as numbers,
what the instructions answer, and the random byte under its mask (spec/43_alu.md R140 to R152). -/

namespace Sys2Proof.Machine

/-! ## The words of the 8 family (R62) -/

/-- The decoder reads an ALU instruction back from its word, the function digit written in the constant. -/
theorem decodeWord_aluWord {i : Instr} {x y : Reg} {low : Nibble} (h : encode i = fmtXYN 0x8 x y low) :
    decodeWord (u16 (0x8000 + low.toNat + 0x100 * x.val + 0x10 * y.val)) = some i := by
  apply decodeWord_u16_of_encode
  rw [h, fmtXYN_toNat]
  simp only [BitVec.reduceToNat]
  omega

/-! ## The end of an instruction (R12, R84, R140) -/

theorem State.setReg_frame (s : State) (r : Reg) (b : Byte) : UnchangedOutside (fun p => p = .reg r) s (s.setReg r b) := by
  intro p hp
  cases p with
  | reg q =>
    have other : q ≠ r := fun h => hp (congrArg Part.reg h)
    exact (s.setReg_reg r b q).trans (if_neg other)
  | _ => rfl

theorem State.advance_pc (s : State) : s.advance.pc = u16 (s.pc.toNat + 2) := by
  apply BitVec.eq_of_toNat_eq
  simp

theorem State.setReg_advance_reg (s : State) (x : Reg) (b : Byte) : (s.setReg x b).advance.reg x = b := by simp

theorem State.setReg_advance_frame (s : State) (x : Reg) (b : Byte) :
    UnchangedOutside (fun p => p = .reg x ∨ p = .pc) s (s.setReg x b).advance :=
  ((s.setReg_frame x b).union ((s.setReg x b).setPc_frame _)).mono fun _ => Or.symm

/-- The flag, written last, leaves a destination other than VF. -/
theorem State.setFlag_advance_reg (s : State) {x : Reg} (hx : x ≠ regF) (b : Byte) (c : Bool) :
    ((s.setReg x b).setFlag c).advance.reg x = b := by
  simp [hx]

theorem State.setFlag_advance_frame (s : State) (x : Reg) (b : Byte) (c : Bool) :
    UnchangedOutside (fun p => p = .reg x ∨ p = .reg regF ∨ p = .pc) s ((s.setReg x b).setFlag c).advance :=
  ((s.setReg_frame x b).union ((s.setReg x b).setReg_advance_frame regF (flagByte c))).mono fun _ => Or.symm

/-! ## Flags as numbers (R147 to R151) -/

/-- A flag as a register value, its condition in the model being the proposition `p`. -/
theorem flagByte_eq_ite {c : Bool} {p : Prop} [Decidable p] (h : c = true ↔ p) : flagByte c = if p then 1 else 0 := by
  by_cases hp : p
  · rw [if_pos hp, h.mpr hp]
    rfl
  · rw [if_neg hp, Bool.eq_false_iff.mpr fun hc => hp (h.mp hc)]
    rfl

theorem carryOut_iff (a b : Byte) : carryOut a b = true ↔ 255 < a.toNat + b.toNat := decide_eq_true_iff

theorem noBorrow_iff (a b : Byte) : noBorrow a b = true ↔ b.toNat ≤ a.toNat := decide_eq_true_iff

/-- A flag that tests for 1 a number of one bit is that number. -/
theorem flagByte_toNat_of_bit {c : Bool} {n : Nat} (hn : n < 2) (h : c = true ↔ n = 1) : (flagByte c).toNat = n := by
  rw [flagByte_eq_ite h]
  split
  · exact ‹n = 1›.symm
  · have zero : n = 0 := by omega
    exact zero.symm

theorem flagByte_shiftedOutLow (a : Byte) : (flagByte (shiftedOutLow a)).toNat = a.toNat % 2 := by
  refine flagByte_toNat_of_bit (Nat.mod_lt _ (by decide)) ?_
  simp [shiftedOutLow, ← BitVec.toNat_inj, Nat.and_one_is_mod]

theorem flagByte_shiftedOutHigh (a : Byte) : (flagByte (shiftedOutHigh a)).toNat = a.toNat / 128 := by
  have := a.isLt
  refine flagByte_toNat_of_bit (by omega) ?_
  simp [shiftedOutHigh, ← BitVec.toNat_inj, Nat.shiftRight_eq_div_pow]

/-! ## Results as numbers (R7, R148 to R151) -/

/-- The difference of two bytes modulo 256. -/
theorem u8Int_sub_toNat (a b : Byte) : (u8Int (a.toNat - b.toNat)).toNat = (a.toNat + 256 - b.toNat) % 256 := by
  have := u8Int_toNat (a.toNat - b.toNat)
  have := b.isLt
  omega

theorem toNat_shiftRight_one (a : Byte) : (a >>> 1).toNat = a.toNat / 2 := by
  rw [BitVec.toNat_ushiftRight, Nat.shiftRight_eq_div_pow, pow_one]

theorem toNat_shiftLeft_one (a : Byte) : (a <<< 1).toNat = 2 * a.toNat % 256 := by
  rw [BitVec.toNat_shiftLeft, Nat.shiftLeft_eq, pow_one, mul_comm]

/-! ## What the instructions answer -/

theorem exec_ldImm (x : Reg) (nn : Byte) (s : State) : exec (.ldImm x nn) s = .next (s.setReg x nn).advance := rfl

theorem exec_addImm (x : Reg) (nn : Byte) (s : State) :
    exec (.addImm x nn) s = .next (s.setReg x (u8 ((s.reg x).toNat + nn.toNat))).advance := rfl

theorem exec_ldReg (x y : Reg) (s : State) : exec (.ldReg x y) s = .next (s.setReg x (s.reg y)).advance := rfl

theorem exec_orReg (x y : Reg) (s : State) : exec (.orReg x y) s = .next (s.setReg x (s.reg x ||| s.reg y)).advance := rfl

theorem exec_andReg (x y : Reg) (s : State) : exec (.andReg x y) s = .next (s.setReg x (s.reg x &&& s.reg y)).advance := rfl

theorem exec_xorReg (x y : Reg) (s : State) : exec (.xorReg x y) s = .next (s.setReg x (s.reg x ^^^ s.reg y)).advance := rfl

theorem exec_addReg (x y : Reg) (s : State) :
    exec (.addReg x y) s = .next ((s.setReg x (u8 ((s.reg x).toNat + (s.reg y).toNat))).setFlag
      (carryOut (s.reg x) (s.reg y))).advance := rfl

theorem exec_subReg (x y : Reg) (s : State) :
    exec (.subReg x y) s = .next ((s.setReg x (u8Int ((s.reg x).toNat - (s.reg y).toNat))).setFlag
      (noBorrow (s.reg x) (s.reg y))).advance := rfl

/-- VY is not read. -/
theorem exec_shr (x y : Reg) (s : State) :
    exec (.shr x y) s = .next ((s.setReg x (s.reg x >>> 1)).setFlag (shiftedOutLow (s.reg x))).advance := rfl

/-- VY is not read. -/
theorem exec_shl (x y : Reg) (s : State) :
    exec (.shl x y) s = .next ((s.setReg x (s.reg x <<< 1)).setFlag (shiftedOutHigh (s.reg x))).advance := rfl

theorem execute_rnd (rand : Byte) (x : Reg) (nn : Byte) (s : State) :
    execute rand (.rnd x nn) s = .next (s.countDraw.setReg x (rand &&& nn)).advance := rfl

/-- `exec` draws the free byte the counter names. -/
theorem exec_rnd (x : Reg) (nn : Byte) (s : State) :
    exec (.rnd x nn) s = .next (s.countDraw.setReg x (Config.rand s.draws &&& nn)).advance := rfl

/-! ## The random byte (R152) -/

theorem State.countDraw_frame (s : State) : UnchangedOutside (fun p => p = .draws) s s.countDraw := by
  intro p hp
  cases p with
  | draws => exact absurd rfl hp
  | _ => rfl

/-- The state CXNN answers is the result R152 describes, whatever the byte. -/
theorem rndResult_of_mask (rand : Byte) (x : Reg) (nn : Byte) (s : State) :
    RndResult rand x nn s (s.countDraw.setReg x (rand &&& nn)).advance := by
  have masked := s.countDraw.setReg_advance_reg x (rand &&& nn)
  have frame := s.countDraw_frame.union (s.countDraw.setReg_advance_frame x (rand &&& nn))
  unfold RndResult
  rw [masked]
  refine ⟨fun k _ => BitVec.getLsbD_and, ?_, ?_, rfl, State.advance_pc _, frame.mono fun _ => or_assoc.mp⟩
  · rintro rfl
    exact BitVec.and_zero
  · rintro rfl
    exact BitVec.and_allOnes

/-! ## The statements -/

/-- Settles O30: LD Vx, nn is a register write and an advance. -/
theorem loadImmediateWritesVx : Obligations.LoadImmediateWritesVx := by
  unfold Obligations.LoadImmediateWritesVx
  intro s x nn
  exact ⟨decodeWord_u16_of_encode (fmtXNN_toNat 0x6 x nn), _, exec_ldImm x nn s, s.setReg_advance_reg x _,
    State.advance_pc _, s.setReg_advance_frame x _⟩

/-- Settles O31: the sum is narrowed to a byte, and VX is the one register written. -/
theorem addImmediateWrapsWithoutFlag : Obligations.AddImmediateWrapsWithoutFlag := by
  unfold Obligations.AddImmediateWrapsWithoutFlag
  intro s x nn
  refine ⟨decodeWord_u16_of_encode (fmtXNN_toNat 0x7 x nn), _, exec_addImm x nn s, ?_, State.advance_pc _,
    s.setReg_advance_frame x _⟩
  rw [State.setReg_advance_reg, u8_toNat]

/-- Settles O32: LD Vx, Vy is a register write and an advance. -/
theorem assignCopiesVy : Obligations.AssignCopiesVy := by
  unfold Obligations.AssignCopiesVy
  intro s x y
  exact ⟨decodeWord_aluWord (low := 0x0) rfl, _, exec_ldReg x y s, s.setReg_advance_reg x _,
    State.advance_pc _, s.setReg_advance_frame x _⟩

/-- Settles O33: each writes VX only, with the operation of bit vectors, which is the one of their bits. -/
theorem bitwiseOperationsKeepVF : Obligations.BitwiseOperationsKeepVF := by
  unfold Obligations.BitwiseOperationsKeepVF
  intro s x y
  refine ⟨decodeWord_aluWord (low := 0x1) rfl, decodeWord_aluWord (low := 0x2) rfl,
    decodeWord_aluWord (low := 0x3) rfl, ?_, ?_, ?_⟩
  · refine ⟨_, exec_orReg x y s, fun k _ => ?_, State.advance_pc _, s.setReg_advance_frame x _⟩
    rw [State.setReg_advance_reg, BitVec.getLsbD_or]
  · refine ⟨_, exec_andReg x y s, fun k _ => ?_, State.advance_pc _, s.setReg_advance_frame x _⟩
    rw [State.setReg_advance_reg, BitVec.getLsbD_and]
  · refine ⟨_, exec_xorReg x y s, fun k _ => ?_, State.advance_pc _, s.setReg_advance_frame x _⟩
    rw [State.setReg_advance_reg, BitVec.getLsbD_xor]

/-- Settles O34: the sum goes to VX, then the carry to VF. -/
theorem addSetsCarry : Obligations.AddSetsCarry := by
  unfold Obligations.AddSetsCarry
  intro s x y
  refine ⟨decodeWord_aluWord (low := 0x4) rfl, _, exec_addReg x y s, ?_, fun hx => ?_, State.advance_pc _,
    s.setFlag_advance_frame x _ _⟩
  · rw [setFlag_reg_regF, flagByte_eq_ite (carryOut_iff _ _)]
  · rw [s.setFlag_advance_reg hx, u8_toNat]

/-- Settles O35: the difference goes to VX, then the negated borrow to VF. -/
theorem subtractSetsNoBorrow : Obligations.SubtractSetsNoBorrow := by
  unfold Obligations.SubtractSetsNoBorrow
  intro s x y
  refine ⟨decodeWord_aluWord (low := 0x5) rfl, _, exec_subReg x y s, ?_, fun hx => ?_, State.advance_pc _,
    s.setFlag_advance_frame x _ _⟩
  · rw [setFlag_reg_regF, flagByte_eq_ite (noBorrow_iff _ _)]
  · rw [s.setFlag_advance_reg hx, u8Int_sub_toNat]

/-- Settles O37: half of VX goes to VX, then the bit shifted out to VF; Y is not in the state answered. -/
theorem shiftRightIgnoresVy : Obligations.ShiftRightIgnoresVy := by
  unfold Obligations.ShiftRightIgnoresVy
  intro s x y
  refine ⟨decodeWord_aluWord (low := 0x6) rfl, _, exec_shr x y s, ?_, fun hx => ?_, State.advance_pc _,
    s.setFlag_advance_frame x _ _, fun y' => exec_shr x y' s⟩
  · rw [setFlag_reg_regF, flagByte_shiftedOutLow]
  · rw [s.setFlag_advance_reg hx, toNat_shiftRight_one]

/-- Settles O38: twice VX goes to VX, then the bit shifted out to VF; Y is not in the state answered. -/
theorem shiftLeftIgnoresVy : Obligations.ShiftLeftIgnoresVy := by
  unfold Obligations.ShiftLeftIgnoresVy
  intro s x y
  refine ⟨decodeWord_aluWord (low := 0xE) rfl, _, exec_shl x y s, ?_, fun hx => ?_, State.advance_pc _,
    s.setFlag_advance_frame x _ _, fun y' => exec_shl x y' s⟩
  · rw [setFlag_reg_regF, flagByte_shiftedOutHigh]
  · rw [s.setFlag_advance_reg hx, toNat_shiftLeft_one]

/-- Settles O39: with the free byte and with a supplied one, CXNN answers the result R152 describes. -/
theorem randomByteIsMasked : Obligations.RandomByteIsMasked := by
  unfold Obligations.RandomByteIsMasked
  refine fun s x nn => ⟨decodeWord_u16_of_encode (fmtXNN_toNat 0xC x nn), ?_, fun rand => ?_⟩
  · exact ⟨_, exec_rnd x nn s, rndResult_of_mask _ x nn s⟩
  · exact ⟨_, execute_rnd rand x nn s, rndResult_of_mask rand x nn s⟩

end Sys2Proof.Machine
end

section
/-! PROOFS. The index register and memory: frames of a write to I, of the two block transfers and of the digits, what the
instructions answer with their addresses in range and out of it (spec/44_index_memory.md R170 to R175). -/

namespace Sys2Proof.Machine

/-! ## The words of the F family (R62) -/

/-- The decoder reads an F-family instruction back from its word, the low byte written in the constant. -/
theorem decodeWord_miscWord {i : Instr} {x : Reg} {nn : Byte} (h : encode i = fmtXNN 0xF x nn) :
    decodeWord (u16 (0xF000 + nn.toNat + 0x100 * x.val)) = some i := by
  apply decodeWord_u16_of_encode
  rw [h, fmtXNN_toNat]
  simp only [BitVec.reduceToNat]
  omega

/-! ## Writes to I (R16, R84) -/

theorem State.setI_frame (s : State) (w : Word) : UnchangedOutside (fun p => p = .index) s (s.setI w) := by
  intro p hp
  cases p with
  | index => exact absurd rfl hp
  | _ => rfl

theorem State.advance_frame (s : State) : UnchangedOutside (fun p => p = .pc) s s.advance := s.setPc_frame _

theorem State.setI_advance_frame (s : State) (w : Word) :
    UnchangedOutside (fun p => p = .pc ∨ p = .index) s (s.setI w).advance :=
  (s.setI_frame w).union (s.setI w).advance_frame

/-- What is written before the end of an instruction leaves pc for the advance. -/
theorem State.advance_pc_of_eq {s t : State} (h : t.pc = s.pc) : t.advance.pc = u16 (s.pc.toNat + 2) := by
  rw [State.advance_pc, h]

/-- The address one past a transfer in range, in the 16-bit I (R174, R175). -/
theorem u16_onePast_toNat {a n : Nat} (h : a + n < 4096) : (u16 (a + n + 1)).toNat = a + n + 1 := by
  rw [u16_toNat, Nat.mod_eq_of_lt (by omega)]

theorem indexAbove_iff (w : Word) : indexAbove w = true ↔ 0xFFF < w.toNat := decide_eq_true_iff

/-- Five times a byte does not wrap in 16 bits. -/
theorem u16_byte_mul_five (b : Byte) : (u16 (b.toNat * 5)).toNat = 5 * b.toNat := by
  have := b.isLt
  rw [u16_toNat]
  omega

/-! ## The check of I to I + n (R44) -/

theorem checked_of_inRange {s : State} {n : Nat} (h : s.i.toNat + n < 4096) (rest : Result) :
    checked s (indexAddresses s (n + 1)) rest = rest :=
  (checked_indexAddresses s (n + 1) rest).trans (if_pos (.inl h))

/-- Out of range the latch is all that is written, whatever the rest of the instruction is (R88, R236). -/
theorem checked_latches_of_outOfRange {s : State} {n : Nat} (h : 4096 ≤ s.i.toNat + n) (rest : Result) :
    ∃ t, checked s (indexAddresses s (n + 1)) rest = .next t ∧ FaultLatched 4 (max s.i.toNat 4096) s t :=
  ⟨_, (checked_indexAddresses s (n + 1) rest).trans (if_neg (by omega)), raise_latched s .memoryOutOfRange _⟩

/-! ## The decimal digits (R173) -/

/-- The digits of a byte as numbers: none is cut when narrowed to a byte. -/
theorem decimalDigits_toNat (b : Byte) :
    ((decimalDigits b).getD 0 0).toNat = b.toNat / 100 ∧ ((decimalDigits b).getD 1 0).toNat = b.toNat / 10 % 10 ∧
      ((decimalDigits b).getD 2 0).toNat = b.toNat % 10 := by
  have := b.isLt
  refine ⟨(u8_toNat _).trans ?_, (u8_toNat _).trans ?_, (u8_toNat _).trans ?_⟩ <;> omega

/-- Consecutive stores put byte k of the list at a + k. -/
theorem State.writeBytes_readMem_add {s : State} (hm : s.mem.wf) (a : Nat) {bs : List Byte} {k : Nat} (hk : k < bs.length) :
    (s.writeBytes a bs).readMem (a + k) = bs.getD k 0 := by
  have inside : a ≤ a + k ∧ a + k < a + bs.length := by omega
  rw [s.writeBytes_readMem a bs hm.1, if_pos inside, Nat.add_sub_cancel_left]

/-! ## The block transfers (R174, R175) -/

/-- FX55 changes the bytes I to I + X. -/
theorem storeAll_regsTo_frame {s : State} (hm : s.mem.wf) (x : Reg) :
    UnchangedOutside (fun p => ∃ a, p = .memByte a ∧ s.i.toNat ≤ a ∧ a ≤ s.i.toNat + x.val) s (storeAll s (regsTo x)) := by
  intro p hp
  cases p with
  | memByte q =>
    obtain ⟨-, -, kept⟩ := storeAll_spec s hm.1 (regsTo x)
    refine kept q fun r hr hq => hp ⟨q, rfl, ?_⟩
    have : r.val ≤ x.val := (mem_regsTo x r).mp hr
    omega
  | _ => rw [storeAll_eq]; rfl

theorem loadAll_pc (s : State) (rs : List Reg) : (loadAll s rs).pc = s.pc := by rw [loadAll_eq]

/-- FX65 puts the byte at I + r into V[r], for each r up to X. -/
theorem loadAll_regsTo_reg (s : State) {x r : Reg} (hr : r ≤ x) :
    (loadAll s (regsTo x)).reg r = s.readMem (s.i.toNat + r.val) :=
  (loadAll_reg s (regsTo x) r).trans (if_pos ((mem_regsTo x r).mpr hr))

/-- FX65 changes V0 to VX. -/
theorem loadAll_regsTo_frame (s : State) (x : Reg) :
    UnchangedOutside (fun p => ∃ r : Reg, p = .reg r ∧ r.val ≤ x.val) s (loadAll s (regsTo x)) := by
  intro p hp
  cases p with
  | reg q =>
    have beyond : q ∉ regsTo x := fun hq => hp ⟨q, rfl, (mem_regsTo x q).mp hq⟩
    exact (loadAll_reg s (regsTo x) q).trans (if_neg beyond)
  | _ => rw [loadAll_eq]; rfl

/-! ## What the instructions answer -/

theorem exec_ldI (nnn : Addr12) (s : State) : exec (.ldI nnn) s = .next (s.setI (nnn.setWidth 16)).advance := rfl

theorem exec_addIVx (x : Reg) (s : State) :
    exec (.addIVx x) s = .next ((s.setI (u16 (s.i.toNat + (s.reg x).toNat))).setFlag
      (indexAbove (u16 (s.i.toNat + (s.reg x).toNat)))).advance := rfl

theorem exec_ldFVx (x : Reg) (s : State) : exec (.ldFVx x) s = .next (s.setI (u16 ((s.reg x).toNat * 5))).advance := rfl

theorem exec_ldBVx_of_inRange {s : State} (x : Reg) (h : s.i.toNat + 2 < 4096) :
    exec (.ldBVx x) s = .next (s.writeBytes s.i.toNat (decimalDigits (s.reg x))).advance := checked_of_inRange h _

theorem exec_loadRegs_of_inRange {s : State} {x : Reg} (h : s.i.toNat + x.val < 4096) :
    exec (.loadRegs x) s = .next ((loadAll s (regsTo x)).setI (u16 (s.i.toNat + x.val + 1))).advance :=
  checked_of_inRange h _

/-! ## The statements -/

/-- Settles O40: LD I, nnn is a write to I and an advance. -/
theorem loadIndexSetsI : Obligations.LoadIndexSetsI := by
  unfold Obligations.LoadIndexSetsI
  intro s nnn
  exact ⟨decodeWord_u16_of_encode (fmtNNN_toNat 0xA nnn), _, exec_ldI nnn s, setWidth_addr_toNat nnn,
    State.advance_pc _, (s.setI_advance_frame _).mono fun _ => Or.symm⟩

/-- Settles O41: the narrowed sum goes to I, then the test of it to VF. -/
theorem addToIndexSetsRangeFlag : Obligations.AddToIndexSetsRangeFlag := by
  unfold Obligations.AddToIndexSetsRangeFlag
  intro s x
  refine ⟨decodeWord_miscWord (nn := 0x1E) rfl, _, exec_addIVx x s, u16_toNat _, ?_, State.advance_pc _, ?_⟩
  · rw [setFlag_reg_regF]
    exact flagByte_eq_ite (indexAbove_iff _)
  · exact ((s.setI_frame _).union (State.setReg_advance_frame _ regF _)).mono fun _ => Or.symm

/-- Settles O42: LD F, Vx is a write to I and an advance, and the product fits. -/
theorem fontIndexIsFiveTimesVx : Obligations.FontIndexIsFiveTimesVx := by
  unfold Obligations.FontIndexIsFiveTimesVx
  intro s x
  exact ⟨decodeWord_miscWord (nn := 0x29) rfl, _, exec_ldFVx x s, u16_byte_mul_five _,
    State.advance_pc _, (s.setI_advance_frame _).mono fun _ => Or.symm⟩

/-- Settles O43: in range the digits are three consecutive stores at I; out of range the check raises. -/
theorem storeDecimalDigits : Obligations.StoreDecimalDigits := by
  unfold Obligations.StoreDecimalDigits
  refine fun s x => ⟨decodeWord_miscWord (nn := 0x33) rfl, fun hm inRange => ?_, fun out => ?_⟩
  · obtain ⟨hundreds, tens, units⟩ := decimalDigits_toNat (s.reg x)
    have stored (k : Nat) (hk : k < 3) := congrArg BitVec.toNat
      (State.writeBytes_readMem_add hm s.i.toNat (bs := decimalDigits (s.reg x)) hk)
    have frame := (s.writeBytes_frame s.i.toNat (decimalDigits (s.reg x)) hm).union (State.advance_frame _)
    exact ⟨_, exec_ldBVx_of_inRange x inRange, (stored 0 (by decide)).trans hundreds, (stored 1 (by decide)).trans tens,
      (stored 2 (by decide)).trans units, State.advance_pc_of_eq (s.writeBytes_pc _ _),
      frame.mono fun _ => Or.imp_right fun ⟨a, ha, low, high⟩ => ⟨a, ha, low, Nat.le_of_lt_succ high⟩⟩
  · exact checked_latches_of_outOfRange out _

/-- Settles O44: in range the transfer stores V0 to VX and I is set after it; out of range the check raises. -/
theorem storeRegistersAtIndex : Obligations.StoreRegistersAtIndex := by
  unfold Obligations.StoreRegistersAtIndex
  refine fun s x => ⟨decodeWord_miscWord (nn := 0x55) rfl, fun hm inRange => ?_, fun out => ?_⟩
  · have frame := (storeAll_regsTo_frame hm x).union (State.setI_advance_frame _ (u16 (s.i.toNat + x.val + 1)))
    exact ⟨_, exec_storeRegs_of_inRange inRange, fun r hr => storeAll_regsTo_readMem hm hr, u16_onePast_toNat inRange,
      State.advance_pc_of_eq (storeAll_pc s _), frame.mono fun _ => or_assoc.mp⟩
  · exact checked_latches_of_outOfRange out _

/-- Settles O45: in range the transfer loads V0 to VX and I is set after it; out of range the check raises. -/
theorem loadRegistersFromIndex : Obligations.LoadRegistersFromIndex := by
  unfold Obligations.LoadRegistersFromIndex
  refine fun s x => ⟨decodeWord_miscWord (nn := 0x65) rfl, fun inRange => ?_, fun out => ?_⟩
  · have frame := (loadAll_regsTo_frame s x).union (State.setI_advance_frame _ (u16 (s.i.toNat + x.val + 1)))
    exact ⟨_, exec_loadRegs_of_inRange inRange, fun r hr => loadAll_regsTo_reg s hr, u16_onePast_toNat inRange,
      State.advance_pc_of_eq (loadAll_pc s _), frame.mono fun _ => or_assoc.mp⟩
  · exact checked_latches_of_outOfRange out _

/-- Settles O46: FX65 reads the bytes FX55 stored, memory and I being the same. -/
theorem storeThenLoadRoundTrips : Obligations.StoreThenLoadRoundTrips := by
  unfold Obligations.StoreThenLoadRoundTrips
  intro s t s' u x hm inRange store hmem hi load r hr
  rw [exec_storeRegs_of_inRange inRange] at store
  rw [exec_loadRegs_of_inRange (hi ▸ inRange)] at load
  cases store
  cases load
  calc (loadAll s' (regsTo x)).reg r
      = s'.readMem (s.i.toNat + r.val) := hi ▸ loadAll_regsTo_reg s' hr
    _ = (storeAll s (regsTo x)).readMem (s.i.toNat + r.val) := congrArg (Memory.read · _) hmem
    _ = s.reg r := storeAll_regsTo_readMem hm hr

end Sys2Proof.Machine
end

section
/-! PROOFS. Display: the frame of a framebuffer write, and what CLS answers (spec/45_display.md R191). -/

namespace Sys2Proof.Machine

/-! ## Writes to FB (R21, R22) -/

/-- A framebuffer write sets DIRTY too, and changes nothing but it and the cells. -/
theorem State.setFb_frame (s : State) (fb : Framebuffer) :
    UnchangedOutside (fun p => p = .dirty ∨ ∃ idx, p = .pixel idx) s (s.setFb fb) := by
  intro p hp
  cases p with
  | dirty => exact absurd (.inl rfl) hp
  | pixel idx => exact absurd (.inr ⟨idx, rfl⟩) hp
  | _ => rfl

theorem State.setFb_advance_frame (s : State) (fb : Framebuffer) :
    UnchangedOutside (fun p => p = .pc ∨ p = .dirty ∨ ∃ idx, p = .pixel idx) s (s.setFb fb).advance :=
  (s.setFb_frame fb).union (s.setFb fb).advance_frame

/-! ## What CLS answers -/

theorem exec_cls (s : State) : exec .cls s = .next (s.setFb 0).advance := rfl

/-- Every cell of the cleared framebuffer reads 0. -/
theorem State.setFb_zero_advance_cell (s : State) (idx : Nat) : (s.setFb 0).advance.cell idx = false := by
  rw [State.advance_eq, State.setPc_cell, State.setFb_cell]
  exact BitVec.getLsbD_zero

/-! ## The statement -/

/-- Settles O48: CLS is a write of the all-zero framebuffer, which sets DIRTY, and an advance. -/
theorem clearScreenZeroesEveryCell : Obligations.ClearScreenZeroesEveryCell := by
  unfold Obligations.ClearScreenZeroesEveryCell
  exact ⟨decodeWord_encode .cls, fun s => ⟨_, exec_cls s, fun idx _ => s.setFb_zero_advance_cell idx, s.setFb_dirty 0,
    State.advance_pc _, s.setFb_advance_frame 0⟩⟩

end Sys2Proof.Machine
end

section
/-! PROOFS. Keypad and timers: the key VX indexes, in range and out of it, the frames of the timer writes, and what the
instructions answer (spec/46_timers_keypad.md R210 to R215). -/

namespace Sys2Proof.Machine

/-! ## The words of an X-NN format (R62) -/

/-- The decoder reads an X-NN instruction back from its word, the low byte written in the constant. -/
theorem decodeWord_XNNWord {i : Instr} {f : Nibble} {x : Reg} {nn : Byte} (h : encode i = fmtXNN f x nn) :
    decodeWord (u16 (0x1000 * f.toNat + nn.toNat + 0x100 * x.val)) = some i := by
  apply decodeWord_u16_of_encode
  rw [h, fmtXNN_toNat, Nat.add_right_comm]

/-! ## The key VX indexes (R210, R211, R237) -/

theorem withKey_of_index {s : State} {x : Reg} {k : Fin 16} (hk : k.val = (s.reg x).toNat) (rest : Fin 16 → Result) :
    withKey s x rest = rest k := by
  have index : (s.reg x).toNat < 16 := hk ▸ k.isLt
  obtain rfl : k = ⟨(s.reg x).toNat, index⟩ := Fin.ext hk
  exact dif_pos index

/-- With VX above 0xF the latch is all that is written, whatever the rest of the instruction is (R88, R237). -/
theorem withKey_latches_of_noIndex {s : State} {x : Reg} (h : 0xF < (s.reg x).toNat) (rest : Fin 16 → Result) :
    ∃ t, withKey s x rest = .next t ∧ FaultLatched 5 (s.reg x).toNat s t :=
  ⟨_, dif_neg (Nat.not_lt.mpr h), raise_latched s .keyIndexOutOfRange _⟩

/-! ## Writes to the timers (R19, R20, R84) -/

theorem State.setDt_frame (s : State) (b : Byte) : UnchangedOutside (fun p => p = .dt) s (s.setDt b) := by
  intro p hp
  cases p with
  | dt => exact absurd rfl hp
  | _ => rfl

theorem State.setSt_frame (s : State) (b : Byte) : UnchangedOutside (fun p => p = .st) s (s.setSt b) := by
  intro p hp
  cases p with
  | st => exact absurd rfl hp
  | _ => rfl

/-! ## What the instructions answer -/

theorem exec_skp (x : Reg) (s : State) : exec (.skp x) s = withKey s x fun k => .next (s.skipIf (s.keyDown k)) := rfl

theorem exec_sknp (x : Reg) (s : State) : exec (.sknp x) s = withKey s x fun k => .next (s.skipIf (!s.keyDown k)) := rfl

theorem exec_ldVxDt (x : Reg) (s : State) : exec (.ldVxDt x) s = .next (s.setReg x s.dt).advance := rfl

theorem exec_ldVxK_of_key {s : State} (x : Reg) {k : Fin 16} (hk : s.lowestKey = some k) :
    exec (.ldVxK x) s = .next (s.setReg x (u8 k.val)).advance := by
  simp only [exec, execLdVxK, hk, done_eq]

theorem exec_ldDtVx (x : Reg) (s : State) : exec (.ldDtVx x) s = .next (s.setDt (s.reg x)).advance := rfl

theorem exec_ldStVx (x : Reg) (s : State) : exec (.ldStVx x) s = .next (s.setSt (s.reg x)).advance := rfl

/-- A key index keeps its value as a register value. -/
theorem u8_key_toNat (k : Fin 16) : (u8 k.val).toNat = k.val := by
  rw [u8_toNat]
  omega

/-! ## The statements -/

/-- Settles O51: with VX a key index both are a skip, on the key and on its negation; above it both raise. -/
theorem skipsOnKey : Obligations.SkipsOnKey := by
  unfold Obligations.SkipsOnKey
  intro s x
  rw [exec_skp, exec_sknp]
  refine ⟨decodeWord_XNNWord (f := 0xE) (nn := 0x9E) rfl, decodeWord_XNNWord (f := 0xE) (nn := 0xA1) rfl,
    fun k hk => ⟨?_, ?_⟩, fun noIndex => ⟨?_, ?_⟩⟩
  · exact ⟨_, withKey_of_index hk _, s.skipIf_pc Iff.rfl, s.skipIf_frame _⟩
  · exact ⟨_, withKey_of_index hk _, s.skipIf_pc (Bool.not_eq_true' _).to_iff, s.skipIf_frame _⟩
  · exact withKey_latches_of_noIndex noIndex _
  · exact withKey_latches_of_noIndex noIndex _

/-- Settles O52: LD Vx, DT is a register write of DT and an advance. -/
theorem readDelayTimer : Obligations.ReadDelayTimer := by
  unfold Obligations.ReadDelayTimer
  intro s x
  exact ⟨decodeWord_miscWord (nn := 0x07) rfl, _, exec_ldVxDt x s, s.setReg_advance_reg x _, State.advance_pc _,
    s.setReg_advance_frame x _⟩

/-- Settles O53, by the lowest key down: with none the step blocks in the state it is given, else its index goes to VX. -/
theorem waitForKeyTakesTheLowest : Obligations.WaitForKeyTakesTheLowest := by
  unfold Obligations.WaitForKeyTakesTheLowest
  refine fun s x => ⟨decodeWord_miscWord (nn := 0x0A) rfl, fun noneDown => ?_, fun k down lower => ?_⟩
  · have noKey : s.lowestKey = none := (lowestKey_eq_none s).mpr noneDown
    exact ⟨execute_ldVxK_of_noKey 0 x noKey, (blocks_eq_true_iff _ s).mpr ⟨⟨x, rfl⟩, noKey⟩⟩
  · have lowest : s.lowestKey = some k := (lowestKey_eq_some s k).mpr ⟨down, lower⟩
    have loaded := congrArg BitVec.toNat (s.setReg_advance_reg x (u8 k.val))
    have goesOn : blocks (.ldVxK x) s = false := by rw [blocks, lowest, Option.isNone_some]
    exact ⟨_, exec_ldVxK_of_key x lowest, loaded.trans (u8_key_toNat k), State.advance_pc _,
      s.setReg_advance_frame x _, goesOn⟩

/-- Settles O54: each is a write of VX to its timer and an advance. -/
theorem setTimersFromVx : Obligations.SetTimersFromVx := by
  unfold Obligations.SetTimersFromVx
  refine fun s x => ⟨decodeWord_miscWord (nn := 0x15) rfl, decodeWord_miscWord (nn := 0x18) rfl, ?_, ?_⟩
  · have frame := (s.setDt_frame (s.reg x)).union (State.advance_frame _)
    exact ⟨_, exec_ldDtVx x s, rfl, State.advance_pc _, frame.mono fun _ => Or.symm⟩
  · have frame := (s.setSt_frame (s.reg x)).union (State.advance_frame _)
    exact ⟨_, exec_ldStVx x s, rfl, State.advance_pc _, frame.mono fun _ => Or.symm⟩

end Sys2Proof.Machine
end

section
/-! PROOFS. DRW: the cells of a sprite as the set bits of its rows, the first of them off the grid, what DRW answers in each case,
and the screen and the collision flag after it (spec/45_display.md R190, R192). -/

namespace Sys2Proof.Machine

/-! ## The cells of a sprite (R190) -/

/-- The cells DRW Vx, Vy, n flips, in row-then-column order. -/
def drwCells (s : State) (x y : Reg) (n : Nibble) : List (Nat × Nat) :=
  spriteCells (s.reg x).toNat (s.reg y).toNat (spriteRows s n.toNat)

/-- One cell for each set bit of the sprite. -/
theorem mem_drwCells {s : State} {x y : Reg} {n : Nibble} {p : Nat × Nat} :
    p ∈ drwCells s x y n ↔ ∃ r c, spriteBit s n r c ∧ p = ((s.reg x).toNat + c, (s.reg y).toNat + r) := by
  rw [drwCells, mem_spriteCells, spriteRows_length]
  refine exists_congr fun r => exists_congr fun c => ⟨fun ⟨hr, hc, bit, hp⟩ => ?_, fun ⟨⟨hr, hc, bit⟩, hp⟩ => ?_⟩
  · exact ⟨⟨hr, hc, spriteRows_getD s n.toNat r hr ▸ bit⟩, hp⟩
  · exact ⟨hr, hc, (spriteRows_getD s n.toNat r hr).symm ▸ bit, hp⟩

theorem covers_iff_mem_drwCells {s : State} {x y : Reg} {n : Nibble} {px py : Nat} :
    covers s x y n px py ↔ (px, py) ∈ drwCells s x y n := by
  simp only [covers, mem_drwCells, Prod.mk.injEq]

theorem offGrid_iff (px py : Nat) : offGrid (px, py) = true ↔ 64 ≤ px ∨ 32 ≤ py := by simp [offGrid]

/-- The set bits off the grid are the cells off the grid. -/
theorem mem_drwCells_of_bitOffGrid {s : State} {x y : Reg} {n : Nibble} {r c : Nat} (h : bitOffGrid s x y n r c) :
    ((s.reg x).toNat + c, (s.reg y).toNat + r) ∈ drwCells s x y n ∧
      offGrid ((s.reg x).toNat + c, (s.reg y).toNat + r) = true := by
  obtain ⟨bit, off⟩ := h
  exact ⟨mem_drwCells.mpr ⟨r, c, bit, rfl⟩, (offGrid_iff _ _).mpr off⟩

theorem bitOffGrid_of_mem_drwCells {s : State} {x y : Reg} {n : Nibble} {p : Nat × Nat} (hp : p ∈ drwCells s x y n)
    (off : offGrid p = true) : ∃ r c, bitOffGrid s x y n r c ∧ p = ((s.reg x).toNat + c, (s.reg y).toNat + r) := by
  obtain ⟨r, c, bit, rfl⟩ := mem_drwCells.mp hp
  exact ⟨r, c, ⟨bit, (offGrid_iff _ _).mp off⟩, rfl⟩

theorem drwCells_onGrid {s : State} {x y : Reg} {n : Nibble} (h : ∀ r c, ¬ bitOffGrid s x y n r c) :
    ∀ p ∈ drwCells s x y n, offGrid p = false := by
  intro p hp
  by_contra off
  obtain ⟨r, c, bit, -⟩ := bitOffGrid_of_mem_drwCells hp (Bool.eq_true_of_not_eq_false off)
  exact h r c bit

/-! ## The first bit off the grid (R192, R238) -/

/-- Of an ordered list the element found comes before every other that qualifies. -/
theorem find?_before {α : Type} {R : α → α → Prop} {f : α → Bool} {l : List α} {p q : α} (hl : l.Pairwise R)
    (hq : l.find? f = some q) (hp : p ∈ l) (hf : f p = true) : p = q ∨ R q p := by
  obtain ⟨-, before, after, rfl, rejected⟩ := List.find?_eq_some_iff_append.mp hq
  obtain ⟨-, ordered, -⟩ := List.pairwise_append.mp hl
  obtain hp | hp := List.mem_append.mp hp
  · exact absurd hf (by simpa using rejected p hp)
  · exact (List.mem_cons.mp hp).imp_right ((List.pairwise_cons.mp ordered).1 p)

/-- The cell DRW reports is that of the first set bit off the grid in row-then-column order. -/
theorem find?_offGrid_drwCells {s : State} {x y : Reg} {n : Nibble} {r c : Nat} (h : bitOffGrid s x y n r c)
    (first : ∀ r' c', r' < r ∨ (r' = r ∧ c' < c) → ¬ bitOffGrid s x y n r' c') :
    (drwCells s x y n).find? offGrid = some ((s.reg x).toNat + c, (s.reg y).toNat + r) := by
  obtain ⟨hp, off⟩ := mem_drwCells_of_bitOffGrid h
  cases hq : (drwCells s x y n).find? offGrid with
  | none => exact absurd off (List.find?_eq_none.mp hq _ hp)
  | some q =>
    obtain ⟨r', c', bit, rfl⟩ := bitOffGrid_of_mem_drwCells (List.mem_of_find?_eq_some hq) (List.find?_some hq)
    obtain same | earlier := find?_before (spriteCells_pairwise _ _ _) hq hp off
    · rw [same]
    · exact absurd bit (first r' c' (by simp only at earlier; omega))

/-! ## What DRW answers -/

section Answers

variable {s : State} {n : Nibble} (inMemory : n.toNat = 0 ∨ s.i.toNat + n.toNat ≤ 4096) (x y : Reg)

include inMemory

theorem exec_drw_of_onGrid (onGrid : ∀ p ∈ drwCells s x y n, offGrid p = false) :
    exec (.drw x y n) s = .next ((s.setFb (drawCells s.fb (drwCells s x y n)).1).setFlag
      (drawCells s.fb (drwCells s x y n)).2).advance := by
  have noneOff : (drwCells s x y n).find? offGrid = none := List.find?_eq_none.mpr fun p hp => by simp [onGrid p hp]
  refine (checked_indexAddresses s n.toNat _).trans ((if_pos inMemory.symm).trans ?_)
  rw [drwCells] at noneOff
  simp only [noneOff, drwCells, done_eq]

theorem exec_drw_of_offGrid {p : Nat × Nat} (found : (drwCells s x y n).find? offGrid = some p) :
    exec (.drw x y n) s = .next (s.raise .drawOutOfRange (drawInfo p)) := by
  refine (checked_indexAddresses s n.toNat _).trans ((if_pos inMemory.symm).trans ?_)
  rw [drwCells] at found
  simp only [found, fail_eq]

end Answers

theorem exec_drw_of_outOfMemory {s : State} {n : Nibble} (x y : Reg) (hn : 1 ≤ n.toNat)
    (out : 4096 < s.i.toNat + n.toNat) :
    exec (.drw x y n) s = .next (s.raise .memoryOutOfRange (max s.i.toNat 4096)) :=
  (checked_indexAddresses s n.toNat _).trans (if_neg (by omega))

/-! ## The screen and the collision flag after DRW (R192) -/

theorem cellIndex_eq (px py : Nat) : cellIndex px py = px + 64 * py := by rw [cellIndex, Nat.mul_comm]

/-- On the grid a cell is known by its index. -/
theorem mem_map_cellIndex {cells : List (Nat × Nat)} (onGrid : ∀ p ∈ cells, offGrid p = false) {px py : Nat} (hx : px < 64) :
    px + 64 * py ∈ cells.map (fun p => cellIndex p.1 p.2) ↔ (px, py) ∈ cells := by
  rw [List.mem_map]
  refine ⟨fun ⟨⟨qx, qy⟩, hq, same⟩ => ?_, fun hp => ⟨_, hp, cellIndex_eq px py⟩⟩
  have inside : ¬ (64 ≤ qx ∨ 32 ≤ qy) := (offGrid_iff qx qy).not.mp (by simp [onGrid _ hq])
  rw [cellIndex_eq] at same
  obtain ⟨rfl, rfl⟩ : qx = px ∧ qy = py := by omega
  exact hq

section Drawn

variable {s : State} {x y : Reg} {n : Nibble} (onGrid : ∀ p ∈ drwCells s x y n, offGrid p = false)

include onGrid

theorem drwCells_nodup : ((drwCells s x y n).map fun p => cellIndex p.1 p.2).Nodup := spriteCells_nodup _ _ _ onGrid

/-- A cell of the grid is flipped exactly if the sprite covers it. -/
theorem drawCells_drwCells_cell {px py : Nat} (hx : px < 64) (hy : py < 32) :
    (drawCells s.fb (drwCells s x y n)).1.getLsbD (px + 64 * py) =
      (s.cell (px + 64 * py) ^^ decide ((px, py) ∈ drwCells s x y n)) := by
  obtain ⟨cells, -⟩ := drawCells_spec s.fb _ (drwCells_nodup onGrid)
  have inFb : px + 64 * py < 2048 := by omega
  simp only [cells, mem_map_cellIndex onGrid hx, inFb, decide_true, Bool.and_true, State.cell]

/-- A collision is a covered cell that was set. -/
theorem drawCells_drwCells_collision :
    (drawCells s.fb (drwCells s x y n)).2 = true ↔ ∃ px py, covers s x y n px py ∧ s.cell (px + 64 * py) = true := by
  obtain ⟨-, collision⟩ := drawCells_spec s.fb _ (drwCells_nodup onGrid)
  simp only [collision, List.any_eq_true, Prod.exists, cellIndex_eq, covers_iff_mem_drwCells, State.cell]

end Drawn

theorem State.setFb_setFlag_advance_frame (s : State) (fb : Framebuffer) (c : Bool) :
    UnchangedOutside (fun p => p = .pc ∨ p = .dirty ∨ p = .reg regF ∨ ∃ idx, p = .pixel idx) s
      ((s.setFb fb).setFlag c).advance :=
  ((s.setFb_frame fb).union ((s.setFb fb).setReg_advance_frame regF (flagByte c))).mono fun _ => by tauto

/-! ## The statement -/

/-- Settles O49: DRW answers the drawn screen, or the fault of its memory, or the fault of its first bit off the grid. -/
theorem drawXorsTheSprite : Obligations.DrawXorsTheSprite := by
  unfold Obligations.DrawXorsTheSprite
  refine fun s x y n => ⟨decodeWord_u16_of_encode (fmtXYN_toNat 0xD x y n), fun inMemory inside => ?_, fun hn out => ?_,
    fun inMemory r c off first => ?_⟩
  · have onGrid := drwCells_onGrid inside
    have cell {px py : Nat} := drawCells_drwCells_cell onGrid (px := px) (py := py)
    have collision := drawCells_drwCells_collision onGrid
    refine ⟨_, exec_drw_of_onGrid inMemory x y onGrid, fun px py hx hy covered => ?_, fun px py hx hy uncovered => ?_,
      fun hit => ?_, fun noHit => ?_, rfl, State.advance_pc _, State.setFb_setFlag_advance_frame s _ _⟩
    · refine (cell hx hy).trans ?_
      rw [decide_eq_true (covers_iff_mem_drwCells.mp covered), Bool.xor_true]
    · refine (cell hx hy).trans ?_
      rw [decide_eq_false (covers_iff_mem_drwCells.not.mp uncovered), Bool.xor_false]
    · rw [setFlag_reg_regF, collision.mpr hit]
      rfl
    · have clear : ¬ ∃ px py, covers s x y n px py ∧ s.cell (px + 64 * py) = true :=
        fun ⟨px, py, covered, wasSet⟩ => by simp [noHit px py covered] at wasSet
      rw [setFlag_reg_regF, Bool.eq_false_iff.mpr (collision.not.mpr clear)]
      rfl
  · exact ⟨_, exec_drw_of_outOfMemory x y hn out, raise_latched s .memoryOutOfRange _⟩
  · exact ⟨_, exec_drw_of_offGrid inMemory x y (find?_offGrid_drwCells off first), raise_latched s .drawOutOfRange _⟩

end Sys2Proof.Machine
end

section
/-! PROOFS. The host's operations: that each keeps the invariant, what SET_KEYS, TICK, PRESENT and READ_STATUS change, the byte
RAND of a step, and the word of no row of the opcode map (spec/60_exceptions.md R233, R246 to R251). -/

namespace Sys2Proof.Machine

/-! ## STEP as the host sees it (R80, R250) -/

theorem hostStep_of_cycle {mode : Config.TimerMode} {rand : Byte} {s t : State} {r : StepResult}
    (h : cycle mode rand s = .next (t, r)) : hostStep mode rand s = .next (t, .stepped r) := by
  simp [hostStep, h]

/-- A STEP of a halted core leaves the state, any other is a cycle. -/
theorem hostStep_cases {mode : Config.TimerMode} {rand : Byte} {s t : State} {out : HostOutput}
    (h : hostStep mode rand s = .next (t, out)) : t = s ∨ ∃ r, cycle mode rand s = .next (t, r) := by
  by_cases hs : s.halted = true
  · rw [hostStep_of_halted mode rand hs] at h
    cases h
    exact .inl rfl
  · obtain ⟨u, r, hc⟩ := runningCoreAlwaysSteps mode rand s (Bool.eq_false_iff.mpr hs)
    rw [hostStep_of_cycle hc] at h
    cases h
    exact .inr ⟨r, hc⟩

/-! ## The invariant (R251) -/

/-- The state after INIT is the reset state but for the counter, of which the invariant does not speak. -/
theorem init_inv (s : State) : s.init.Inv := invariantHoldsAtReset

/-- LOAD stores below the edge of memory, or raises (R272, R273). -/
theorem hostLoad_inv (bytes : List Byte) {s : State} (hs : s.Inv) : (hostLoad bytes s).1.Inv := by
  unfold hostLoad
  split
  · next fits =>
    obtain ⟨hm, rest⟩ := hs
    have fits : 512 + bytes.length ≤ 4096 := Nat.add_le_add_left fits 512
    have wf := s.writeBytes_wf Config.progBase bytes hm fits
    rw [State.writeBytes_eq]
    exact ⟨wf, rest⟩
  · exact raise_inv hs _ _

theorem hostStep_inv {mode : Config.TimerMode} {rand : Byte} {s t : State} {out : HostOutput} (hs : s.Inv)
    (h : hostStep mode rand s = .next (t, out)) : t.Inv := by
  obtain rfl | ⟨r, hc⟩ := hostStep_cases h
  · exact hs
  · exact cycle_inv hs hc

theorem hostTick_inv {s : State} (hs : s.Inv) : (hostTick s).Inv := by
  unfold hostTick
  split
  · exact hs
  · exact decay_inv hs

/-- Settles O18, by cases on the host's operation; SET_KEYS, PRESENT and READ_STATUS touch nothing the invariant speaks of. -/
theorem hostOperationsKeepTheInvariant : Obligations.HostOperationsKeepTheInvariant := by
  unfold Obligations.HostOperationsKeepTheInvariant
  intro mode o s t out hs h
  cases o with
  | init => cases h; exact init_inv s
  | load bytes =>
    have e : hostLoad bytes s = (t, out) := Host.Outcome.next.inj h
    simpa only [e] using hostLoad_inv bytes hs
  | step rand => exact hostStep_inv hs h
  | tick =>
    cases mode with
    | perInstruction => cases h
    | externalTick => cases h; exact hostTick_inv hs
  | setKeys | present | readStatus => cases h; exact hs

/-! ## A word of no row (R65, R82, R233) -/

theorem decodeWord_eq_none_of_no_row {op : Word} (h : ∀ r ∈ opcodeMap, r.holds op = false) : decodeWord op = none := by
  refine Option.eq_none_iff_forall_ne_some.mpr fun i hd => ?_
  exact Bool.eq_false_iff.mp (h _ (rowOf_mem_opcodeMap i)) (rowOf_holds_of_decodeWord hd)

/-- Settles O8: the word fetched does not decode, so the cycle raises with it. -/
theorem unrecognizedWordFaults : Obligations.UnrecognizedWordFaults := by
  unfold Obligations.UnrecognizedWordFaults
  intro s hs hf noRow
  have raised := cycle_of_decode_none timerMode s.randByte hs (fetch_wordAtPc hf) (decodeWord_eq_none_of_no_row noRow)
  exact ⟨_, step_eq_next.mpr ⟨_, raised⟩, raise_latched s .unknownOpcode _⟩

/-! ## TICK (R246) -/

theorem hostTick_of_running {s : State} (h : s.running) : hostTick s = s.decay := if_neg (Bool.eq_false_iff.mp h)

/-- Settles O58: TICK is the decay of a running core, and nothing of a halted one. -/
theorem tickDecaysTheTimers : Obligations.TickDecaysTheTimers := by
  unfold Obligations.TickDecaysTheTimers
  refine fun s => ⟨⟨hostTick s, rfl, hostTick_of_halted, fun hs => ?_⟩, rfl⟩
  rw [hostTick_of_running hs]
  exact ⟨countDown_toNat s.dt, countDown_toNat s.st, decay_frame s⟩

/-! ## RAND (R152, R247) -/

/-- A running core whose word is CXNN completes it with the byte supplied. -/
theorem cycle_rnd (mode : Config.TimerMode) (rand : Byte) {s : State} {x : Reg} {nn : Byte} (hs : s.running)
    (hf : s.fetchable) (hd : decodeWord s.wordAtPc = some (.rnd x nn)) :
    ∃ t, cycle mode rand s = .next (t, .completed) ∧ t.reg x = rand &&& nn := by
  have masked := s.countDraw.setReg_advance_reg x (rand &&& nn)
  refine ⟨_, (cycle_execute hs (fetch_wordAtPc hf) hd (execute_rnd rand x nn s)).trans
    (congrArg _ (finish_of_not_blocks mode hs nofun)), ?_⟩
  split <;> exact masked

/-- A step that executes no CXNN is one function of the state: it faults before any instruction runs, or its instruction does not
read the byte. -/
theorem cycle_rand_irrelevant {mode : Config.TimerMode} {s : State}
    (h : ¬ (s.running ∧ s.fetchable ∧ ∃ x nn, decodeWord s.wordAtPc = some (.rnd x nn))) (rand rand' : Byte) :
    cycle mode rand s = cycle mode rand' s := by
  by_cases hh : s.halted = true
  · rw [cycle_of_halted mode rand hh, cycle_of_halted mode rand' hh]
  have hs : s.running := Bool.eq_false_iff.mpr hh
  cases hf : fetch s with
  | error a => rw [cycle_of_fetch_error mode rand hs hf, cycle_of_fetch_error mode rand' hs hf]
  | ok op =>
    cases hd : decodeWord op with
    | none => rw [cycle_of_decode_none mode rand hs hf hd, cycle_of_decode_none mode rand' hs hf hd]
    | some i =>
      have notRnd : ∀ x nn, i ≠ .rnd x nn := by
        rintro x nn rfl
        exact h ⟨hs, fetchable_of_fetch hf, x, nn, wordAtPc_of_fetch hf ▸ hd⟩
      obtain ⟨t, he, -⟩ := execute_answers rand i s
      have he' : execute rand' i s = .next t := by
        rw [execute_of_ne_rnd rand' notRnd, ← execute_of_ne_rnd rand notRnd, he]
      rw [cycle_execute hs hf hd he, cycle_execute hs hf hd he']

/-- The byte reaches the host's STEP through the cycle only. -/
theorem hostStep_congr {mode : Config.TimerMode} {rand rand' : Byte} {s : State}
    (h : cycle mode rand s = cycle mode rand' s) : hostStep mode rand s = hostStep mode rand' s := by
  unfold hostStep
  rw [h]

/-- Settles O60: CXNN completes with the byte under the mask, and no other step reads it. -/
theorem randIsTheByteOfTheStep : Obligations.RandIsTheByteOfTheStep := by
  unfold Obligations.RandIsTheByteOfTheStep
  refine fun mode s => ⟨fun x nn hs hf hd rand => ?_, fun h rand rand' => ?_⟩
  · obtain ⟨t, completed, masked⟩ := cycle_rnd mode rand hs hf hd
    refine ⟨t, completed, hostStep_of_cycle completed, fun k _ => ?_⟩
    rw [masked, BitVec.getLsbD_and]
  · have same := cycle_rand_irrelevant (mode := mode) h rand rand'
    exact ⟨same, hostStep_congr same⟩

/-! ## SET_KEYS, PRESENT and READ_STATUS (R248 to R250) -/

theorem hostSetKeys_frame (keys : Vector Bool 16) (s : State) :
    UnchangedOutside (fun p => ∃ k, p = .key k) s (hostSetKeys keys s) := by
  intro p hp
  cases p with
  | key k => exact absurd ⟨k, rfl⟩ hp
  | _ => rfl

theorem hostPresent_frame (s : State) : UnchangedOutside (fun p => p = .dirty) s (hostPresent s) := by
  intro p hp
  cases p with
  | dirty => exact absurd rfl hp
  | _ => rfl

/-- Settles O59: each operation's state, and its frame. -/
theorem keysPresentAndStatus : Obligations.KeysPresentAndStatus := by
  unfold Obligations.KeysPresentAndStatus
  exact fun mode s keys => ⟨⟨_, rfl, fun _ => rfl, hostSetKeys_frame keys s⟩, ⟨_, rfl, rfl, hostPresent_frame s⟩, rfl⟩

end Sys2Proof.Machine
end

section
/-! PROOFS. SUBN and its no-borrow flag (spec/43_alu.md R150), LOAD and the halt of a failed one (spec/70_reset_and_hazards.md R272,
R273), and a sprite drawn twice at one place (spec/45_display.md R192, E4). -/

namespace Sys2Proof.Machine

/-! ## SUBN (R150) -/

theorem exec_subnReg (x y : Reg) (s : State) :
    exec (.subnReg x y) s = .next ((s.setReg x (u8Int ((s.reg y).toNat - (s.reg x).toNat))).setFlag
      (noBorrow (s.reg y) (s.reg x))).advance := rfl

/-- Settles O36: the reversed difference goes to VX, then the negated borrow to VF. -/
theorem reverseSubtractSetsNoBorrow : Obligations.ReverseSubtractSetsNoBorrow := by
  unfold Obligations.ReverseSubtractSetsNoBorrow
  intro s x y
  refine ⟨decodeWord_aluWord (low := 0x7) rfl, _, exec_subnReg x y s, ?_, fun hx => ?_, State.advance_pc _,
    s.setFlag_advance_frame x _ _⟩
  · rw [setFlag_reg_regF, flagByte_eq_ite (noBorrow_iff _ _)]
  · rw [s.setFlag_advance_reg hx, u8Int_sub_toNat]

/-! ## LOAD (R272, R273) -/

theorem hostLoad_of_fits {bytes : List Byte} (h : bytes.length ≤ 3584) (s : State) :
    hostLoad bytes s = (s.writeBytes 0x200 bytes, .ok) := if_pos h

theorem hostLoad_of_too_long {bytes : List Byte} (h : 3584 < bytes.length) (s : State) :
    hostLoad bytes s = (s.raise .capacityExceeded bytes.length, .capacityExceeded) := if_neg (Nat.not_le.mpr h)

/-- The bytes a LOAD stores, counted from the program's first address. -/
theorem writeBytes_progBase_frame {s : State} (hm : s.mem.wf) (bytes : List Byte) :
    UnchangedOutside (fun p => ∃ k, p = .memByte (0x200 + k) ∧ k < bytes.length) s (s.writeBytes 0x200 bytes) := by
  refine (s.writeBytes_frame 0x200 bytes hm).mono ?_
  rintro p ⟨q, rfl, low, high⟩
  exact ⟨q - 0x200, by rw [Nat.add_sub_cancel' low], by omega⟩

/-! ## The halt of a failed LOAD (R24, R273) -/

/-- A property every listed operation keeps holds at the end of the run. -/
theorem hostRun_keeps {P : State → Prop} {mode : Config.TimerMode} {ops : List HostOp} {s u : State}
    (keeps : ∀ o ∈ ops, ∀ s t out, P s → hostOp mode o s = .next (t, out) → P t) (hs : P s)
    (h : hostRun mode ops s = some u) : P u := by
  induction ops generalizing s with
  | nil => cases h; exact hs
  | cons o os ih =>
    rw [hostRun] at h
    split at h
    · next t out ho =>
      exact ih (fun o' ho' => keeps o' (List.mem_cons_of_mem o ho')) (keeps o List.mem_cons_self s t out hs ho) h
    · cases h
    · cases h

/-- The core is halted by a failed LOAD. -/
def State.haltedByLoad (s : State) : Prop := s.halted = true ∧ s.faultCode = 7

theorem haltedByLoad_of_hostLoad (bytes : List Byte) {s : State} (h : s.haltedByLoad) :
    (hostLoad bytes s).1.haltedByLoad := by
  obtain fits | long := le_or_gt bytes.length 3584
  · rw [hostLoad_of_fits fits, State.writeBytes_eq]
    exact h
  · rw [hostLoad_of_too_long long]
    exact ⟨rfl, rfl⟩

theorem hostOp_step_of_haltedByLoad (mode : Config.TimerMode) (rand : Byte) {s : State} (h : s.haltedByLoad) :
    hostOp mode (.step rand) s = .next (s, .stepped (.fault 7)) := by
  obtain ⟨halted, code⟩ := h
  rw [← code]
  exact hostStep_of_halted mode rand halted

/-- INIT alone ends it (R241): a later LOAD either keeps the latch or writes code 7 again (log 19). -/
theorem haltedByLoad_of_hostOp {mode : Config.TimerMode} {o : HostOp} {s t : State} {out : HostOutput} (ho : o ≠ .init)
    (hs : s.haltedByLoad) (h : hostOp mode o s = .next (t, out)) : t.haltedByLoad := by
  cases o with
  | init => exact absurd rfl ho
  | load bytes =>
    have e : hostLoad bytes s = (t, out) := Host.Outcome.next.inj h
    simpa only [e] using haltedByLoad_of_hostLoad bytes hs
  | step rand =>
    rw [hostOp_step_of_haltedByLoad mode rand hs] at h
    cases h
    exact hs
  | tick =>
    cases mode with
    | perInstruction => cases h
    | externalTick =>
      cases h
      obtain ⟨halted, code⟩ := hs
      rw [hostTick_of_halted halted]
      exact ⟨halted, code⟩
  | setKeys | present | readStatus => cases h; exact hs

/-- Settles O57: a LOAD that fits is consecutive stores from 0x200 up; one that does not latches code 7, which every operation but
INIT keeps, so that STEP returns it. -/
theorem loadCopiesTheProgram : Obligations.LoadCopiesTheProgram := by
  unfold Obligations.LoadCopiesTheProgram
  refine fun mode s bytes => ⟨fun hm fits => ?_, fun long => ?_⟩
  · exact ⟨_, congrArg _ (hostLoad_of_fits fits s), fun _ hk => State.writeBytes_readMem_add hm 0x200 hk,
    writeBytes_progBase_frame hm bytes⟩
  · refine ⟨_, congrArg _ (hostLoad_of_too_long long s), raise_latched s .capacityExceeded _, fun ops u noInit run rand => ?_⟩
    have halted : u.haltedByLoad := hostRun_keeps
      (fun o ho _ _ _ hs h => haltedByLoad_of_hostOp (fun e => noInit (e ▸ ho)) hs h) ⟨rfl, rfl⟩ run
    exact hostOp_step_of_haltedByLoad mode rand halted

/-! ## When DRW draws (R192) -/

/-- DRW Vx, Vy, n draws: the sprite is in memory and none of its set bits is off the grid. -/
def Drawable (x y : Reg) (n : Nibble) (s : State) : Prop :=
  (n.toNat = 0 ∨ s.i.toNat + n.toNat ≤ 4096) ∧ ∀ r c, ¬ bitOffGrid s x y n r c

/-- A DRW that leaves the core running has raised neither of its faults. -/
theorem drawable_of_running {s t : State} {x y : Reg} {n : Nibble} (h : exec (.drw x y n) s = .next t) (ht : t.running) :
    Drawable x y n s := by
  have noFault (k : FaultKind) (info : Nat) (he : exec (.drw x y n) s = .next (s.raise k info)) : False := by
    cases h.symm.trans he
    exact Bool.noConfusion ht
  have inMemory : n.toNat = 0 ∨ s.i.toNat + n.toNat ≤ 4096 := by
    by_contra out
    exact noFault _ _ (exec_drw_of_outOfMemory x y (by omega) (by omega))
  refine ⟨inMemory, fun r c off => ?_⟩
  obtain ⟨hp, hoff⟩ := mem_drwCells_of_bitOffGrid off
  cases found : (drwCells s x y n).find? offGrid with
  | none => exact List.find?_eq_none.mp found _ hp hoff
  | some p => exact noFault _ _ (exec_drw_of_offGrid inMemory x y found)

theorem Drawable.covers_onGrid {s : State} {x y : Reg} {n : Nibble} (h : Drawable x y n s) {px py : Nat}
    (covered : covers s x y n px py) : px < 64 ∧ py < 32 := by
  obtain ⟨r, c, bit, rfl, rfl⟩ := covered
  obtain ⟨-, onGrid⟩ := h
  have inside : ¬ (64 ≤ (s.reg x).toNat + c ∨ 32 ≤ (s.reg y).toNat + r) := fun off => onGrid r c ⟨bit, off⟩
  omega

/-- `t` is `s` after a DRW that draws, as the statement DrawXorsTheSprite says it (R192). -/
structure SpriteDrawn (x y : Reg) (n : Nibble) (s t : State) : Prop where
  flips : ∀ px py, px < 64 → py < 32 → covers s x y n px py → t.cell (px + 64 * py) = !s.cell (px + 64 * py)
  keeps : ∀ px py, px < 64 → py < 32 → ¬ covers s x y n px py → t.cell (px + 64 * py) = s.cell (px + 64 * py)
  collision : (∃ px py, covers s x y n px py ∧ s.cell (px + 64 * py) = true) → t.reg regF = 1
  noCollision : (∀ px py, covers s x y n px py → s.cell (px + 64 * py) = false) → t.reg regF = 0
  frame : UnchangedOutside (fun p => p = .pc ∨ p = .dirty ∨ p = .reg regF ∨ ∃ idx, p = .pixel idx) s t

theorem spriteDrawn_of_drawable {s t : State} {x y : Reg} {n : Nibble} (h : exec (.drw x y n) s = .next t)
    (drawable : Drawable x y n s) : SpriteDrawn x y n s t := by
  obtain ⟨-, draws, -, -⟩ := drawXorsTheSprite s x y n
  obtain ⟨inMemory, inside⟩ := drawable
  obtain ⟨t', h', flips, keeps, collision, noCollision, -, -, frame⟩ := draws inMemory inside
  cases h.symm.trans h'
  exact ⟨flips, keeps, collision, noCollision, frame⟩

/-! ## The sprite after it was drawn, X and Y not F -/

section Redrawn

variable {s t : State} {x y : Reg} {n : Nibble} (drawn : SpriteDrawn x y n s t)

include drawn

theorem SpriteDrawn.halted_eq : t.halted = s.halted := drawn.frame .halted (by simp)

theorem SpriteDrawn.index_eq : t.i = s.i := drawn.frame .index (by simp)

theorem SpriteDrawn.reg_eq {r : Reg} (hr : r ≠ regF) : t.reg r = s.reg r := drawn.frame (.reg r) (by simp [hr])

theorem SpriteDrawn.readMem_eq (a : Nat) : t.readMem a = s.readMem a := drawn.frame (.memByte a) (by simp)

theorem SpriteDrawn.spriteBit_iff (r c : Nat) : spriteBit t n r c ↔ spriteBit s n r c := by
  rw [spriteBit, spriteBit, drawn.index_eq, drawn.readMem_eq]

variable (hx : x ≠ regF) (hy : y ≠ regF)

include hx hy

theorem SpriteDrawn.covers_iff (px py : Nat) : covers t x y n px py ↔ covers s x y n px py := by
  simp only [covers, drawn.spriteBit_iff, drawn.reg_eq hx, drawn.reg_eq hy]

theorem SpriteDrawn.drawable_iff : Drawable x y n t ↔ Drawable x y n s := by
  simp only [Drawable, bitOffGrid, drawn.spriteBit_iff, drawn.index_eq, drawn.reg_eq hx, drawn.reg_eq hy]

/-- Each cell is flipped twice or kept twice. -/
theorem SpriteDrawn.fb_restored {u : State} (redrawn : SpriteDrawn x y n t u) : u.fb = s.fb := by
  refine BitVec.eq_of_getLsbD_eq fun idx hidx => ?_
  obtain ⟨px, py, hpx, hpy, rfl⟩ : ∃ px py, px < 64 ∧ py < 32 ∧ idx = px + 64 * py :=
    ⟨idx % 64, idx / 64, by omega, by omega, by omega⟩
  change u.cell (px + 64 * py) = s.cell (px + 64 * py)
  have same := drawn.covers_iff hx hy px py
  by_cases covered : covers s x y n px py
  · rw [redrawn.flips px py hpx hpy (same.mpr covered), drawn.flips px py hpx hpy covered, Bool.not_not]
  · rw [redrawn.keeps px py hpx hpy (same.not.mpr covered), drawn.keeps px py hpx hpy covered]

/-- Drawn on clear cells, a set bit of the sprite leaves a set cell that the second draw hits. -/
theorem SpriteDrawn.redrawn_collides {u : State} (redrawn : SpriteDrawn x y n t u) (drawable : Drawable x y n s)
    (clear : ∀ px py, covers s x y n px py → s.cell (px + 64 * py) = false) {r c : Nat} (bit : spriteBit s n r c) :
    u.reg regF = 1 := by
  have covered : covers s x y n ((s.reg x).toNat + c) ((s.reg y).toNat + r) := ⟨r, c, bit, rfl, rfl⟩
  obtain ⟨hpx, hpy⟩ := drawable.covers_onGrid covered
  refine redrawn.collision ⟨_, _, (drawn.covers_iff hx hy _ _).mpr covered, ?_⟩
  rw [drawn.flips _ _ hpx hpy covered, clear _ _ covered, Bool.not_false]

end Redrawn

/-- A sprite with no set bit covers no cell. -/
theorem SpriteDrawn.noCollision_of_blank {s t : State} {x y : Reg} {n : Nibble} (drawn : SpriteDrawn x y n s t)
    (blank : ∀ r c, ¬ spriteBit s n r c) : t.reg regF = 0 :=
  drawn.noCollision fun _ _ ⟨r, c, bit, _⟩ => absurd bit (blank r c)

/-- Settles O50: the first draw moves neither the sprite nor its place, so the second draws the same cells. -/
theorem drawTwiceRestoresTheScreen : Obligations.DrawTwiceRestoresTheScreen := by
  unfold Obligations.DrawTwiceRestoresTheScreen
  intro s t u x y n hx hy _ first ht second
  have drawable := drawable_of_running first ht
  have drawn := spriteDrawn_of_drawable first drawable
  have redrawn := spriteDrawn_of_drawable second ((drawn.drawable_iff hx hy).mpr drawable)
  refine ⟨redrawn.halted_eq.trans ht, drawn.fb_restored hx hy redrawn, fun clear =>
    ⟨drawn.noCollision clear, fun ⟨r, c, bit⟩ => drawn.redrawn_collides hx hy redrawn drawable clear bit, fun blank => ?_⟩⟩
  exact redrawn.noCollision_of_blank fun r c bit => blank r c ((drawn.spriteBit_iff r c).mp bit)

end Sys2Proof.Machine
end
